-- ==== Sys2Proof/Word.lean ====
section
/-! DEFINITION. The fixed widths of the block (00_scope.md rule R9). Every value is unsigned. -/

namespace Sys2Proof

/-- A PS/2 data byte, a scan code, a character, a buffer entry, a link register (R9). -/
abbrev Byte := BitVec 8

/-- A buffer cursor, `CW` = 3 bits for `CAP` = 8 (R8, R25). -/
abbrev Cursor := BitVec 3

/-- A host command word `{op, rsv, A, B}` (R48). -/
abbrev CmdWord := BitVec 24

/-- The receiver's event word `{rx_state, d}` (R44). -/
abbrev RxWord := BitVec 5

/-- The translator's event word `{kstate, byte}` (R46). -/
abbrev TrWord := BitVec 10

/-- A response `{ERR, OK, DATA}` (R50). -/
abbrev Rsp := BitVec 10

end Sys2Proof
end

