-- ==== Sys2Proof/Config.lean ====
section
/-! DEFINITION. The implementation parameters of 00_scope.md rule R8. A parameter whose value the spec
states for this hardware is a plain constant; an OPEN one is an opaque constant, a free value of which
nothing can be proved. -/

namespace Sys2Proof.Config

/-- What KBDON re-initialises (R8, R98). -/
inductive Reinit where
  | full
  | receiverOnly
  deriving DecidableEq, Repr

/-- `CAP`, the buffer capacity: 8 for this hardware (R8, D11; log 9). -/
abbrev cap : Nat := 8

/-- `TABLE_LEN` (R8, R30). -/
abbrev tableLen : Nat := 96

/-- `KBDON_REINIT`: FULL for this hardware (R8, D20; log 9). -/
def kbdonReinit : Reinit := .full

/-- `SHARED_PINS`: true (R8, D22; log 9). -/
def sharedPins : Bool := true

/-- `MOD_CODES` (R8, R78). -/
def laltCode : Byte := 0x11#8
def lshiftCode : Byte := 0x12#8
def lctrlCode : Byte := 0x14#8
def rshiftCode : Byte := 0x59#8

/-- `EXT_MOD_CODES` (R8, R79). RCTRL is the source's; the other three are the parameter's default,
PRESUMED (from general knowledge, D9; log 8). -/
def rctrlCode : Byte := 0x14#8
def raltCode : Byte := 0x11#8
def lguiCode : Byte := 0x1F#8
def rguiCode : Byte := 0x27#8

/-- `ESC_CODE` and `SENTINEL` (R8, R82). -/
def escCode : Byte := 0x76#8
def sentinel : Byte := 0x00#8

/-- `BREAK_PREFIX` and `EXT_PREFIX` (R8, R45). -/
def breakPrefix : Byte := 0xF0#8
def extPrefix : Byte := 0xE0#8

/-- The table entries the spec leaves open (R87, I8): free values. `tableRead` of Machine/Operands.lean
overrides the entries that rule R87 fixes (log 7). -/
opaque unshiftedFree : Fin tableLen → Byte
opaque shiftedFree : Fin tableLen → Byte

/-- `WAIT_ADDR`, the address byte of the LCD client's busy probe (R8, R105): a free value (log 20). -/
opaque waitAddr : Byte

/-- The cycle counts of the cycle-level realisation (R8, R136, R141). -/
structure Timing where
  settleCycles : Nat
  inhibitCycles : Nat
  blankCycles : Nat
  shiftDiv : Nat
  deriving DecidableEq, Repr, Inhabited

/-- What the spec asks of the counts: `BLANK_CYCLES` at least 3 (R136), `SHIFT_DIV` at least 1 (DEDUCED
from R141: a level held for 0 cycles is no level; log 10). -/
abbrev Timing.ok (p : Timing) : Prop := 3 ≤ p.blankCycles ∧ 1 ≤ p.shiftDiv

/-- The OPEN cycle counts: a free value (log 10). -/
opaque timingFree : Timing

/-- The cycle counts of this hardware: free, within the bounds of `Timing.ok`. -/
def timing : Timing :=
  { timingFree with blankCycles := timingFree.blankCycles + 3, shiftDiv := timingFree.shiftDiv + 1 }

end Sys2Proof.Config
end

