-- ==== Sys2Proof/Syntax.lean ====
section
/-! DEFINITION. One constructor per row of spec/opcode_table.json, in the table's order. A constructor
carries every bit of its word that the row leaves open, the ignored operand bytes A and B too (R48, R51),
so that encoding loses nothing. -/

namespace Sys2Proof

inductive Instr where
  -- Host commands (R49): `a` is `cmd[15:8]`, `b` is `cmd[7:0]`.
  | nop (a b : Byte)
  | rxread (a b : Byte)
  | rxcount (a b : Byte)
  | kbdoff (a b : Byte)
  | kbdon (a b : Byte)
  | linktx (a b : Byte)
  | linkbusy (a b : Byte)
  | status (a b : Byte)
  /-- `op` from 0x8 to 0xF (R51): `op` is `cmd[22:20]`. -/
  | reservedOp (op : BitVec 3) (rsv : BitVec 4) (a b : Byte)
  /-- `op` from 0x0 to 0x7 with `rsv` not 0 (R51). -/
  | reservedRsv (op : BitVec 3) (rsv : BitVec 4) (a b : Byte)
  -- Receiver events (R44): `d` is the sampled data bit.
  | rxStart (d : Bool)
  | rxBit0 (d : Bool)
  | rxBit1 (d : Bool)
  | rxBit2 (d : Bool)
  | rxBit3 (d : Bool)
  | rxBit4 (d : Bool)
  | rxBit5 (d : Bool)
  | rxBit6 (d : Bool)
  | rxBit7 (d : Bool)
  | rxParity (d : Bool)
  | rxStop (d : Bool)
  | rxError (d : Bool)
  /-- `rx_state` from 12 to 15: `low` is its two low bits. -/
  | rxUnused (low : BitVec 2) (d : Bool)
  -- Translator events (R46): `b` is the decoded byte.
  | trNormalF0
  | trNormalE0
  | trNormalOther (b : Byte)
  | trBreak (b : Byte)
  | trExtF0
  | trExtOther (b : Byte)
  | trExtbreak (b : Byte)
  deriving DecidableEq, Repr

/-- The row's mnemonic, as spec/opcode_table.json spells it. -/
def Instr.mnemonic : Instr → String
  | .nop _ _ => "NOP"
  | .rxread _ _ => "RXREAD"
  | .rxcount _ _ => "RXCOUNT"
  | .kbdoff _ _ => "KBDOFF"
  | .kbdon _ _ => "KBDON"
  | .linktx _ _ => "LINKTX"
  | .linkbusy _ _ => "LINKBUSY"
  | .status _ _ => "STATUS"
  | .reservedOp _ _ _ _ => "RESERVED_OP"
  | .reservedRsv _ _ _ _ => "RESERVED_RSV"
  | .rxStart _ => "RX_START"
  | .rxBit0 _ => "RX_BIT0"
  | .rxBit1 _ => "RX_BIT1"
  | .rxBit2 _ => "RX_BIT2"
  | .rxBit3 _ => "RX_BIT3"
  | .rxBit4 _ => "RX_BIT4"
  | .rxBit5 _ => "RX_BIT5"
  | .rxBit6 _ => "RX_BIT6"
  | .rxBit7 _ => "RX_BIT7"
  | .rxParity _ => "RX_PARITY"
  | .rxStop _ => "RX_STOP"
  | .rxError _ => "RX_ERROR"
  | .rxUnused _ _ => "RX_UNUSED"
  | .trNormalF0 => "TR_NORMAL_F0"
  | .trNormalE0 => "TR_NORMAL_E0"
  | .trNormalOther _ => "TR_NORMAL_OTHER"
  | .trBreak _ => "TR_BREAK"
  | .trExtF0 => "TR_EXT_F0"
  | .trExtOther _ => "TR_EXT_OTHER"
  | .trExtbreak _ => "TR_EXTBREAK"

end Sys2Proof
end

