-- ==== Sys2Proof/WellFormed.lean ====
section
/-! DEFINITION. Which terms of Instr are instructions: those whose operands stay within their own row
(R46, R51). Every word of a format is the encoding of exactly one well-formed term. -/

namespace Sys2Proof

/-- RESERVED_RSV needs `rsv` not 0 (R51); the "any other byte" rows exclude the bytes of the rows that
take priority over them (R46). -/
def Instr.wf : Instr → Bool
  | .reservedRsv _ rsv _ _ => rsv != 0#4
  | .trNormalOther b => b != Config.breakPrefix && b != Config.extPrefix
  | .trExtOther b => b != Config.breakPrefix
  | .nop _ _ | .rxread _ _ | .rxcount _ _ | .kbdoff _ _ | .kbdon _ _ | .linktx _ _ | .linkbusy _ _
  | .status _ _ | .reservedOp _ _ _ _ => true
  | .rxStart _ | .rxBit0 _ | .rxBit1 _ | .rxBit2 _ | .rxBit3 _ | .rxBit4 _ | .rxBit5 _ | .rxBit6 _
  | .rxBit7 _ | .rxParity _ | .rxStop _ | .rxError _ | .rxUnused _ _ => true
  | .trNormalF0 | .trNormalE0 | .trBreak _ | .trExtF0 | .trExtbreak _ => true

end Sys2Proof
end

