-- ==== Sys2Proof/Decode.lean ====
section
/-! DEFINITION. The decoder and the encoder of the three formats of spec/opcode_table.json: host command
words (R48 to R52), receiver event words (R44), translator event words (R46). -/

namespace Sys2Proof

/-- The concatenation `{x, y}`, `x` in the more significant place (R10), as a value of `w` bits. -/
def cat {n m w : Nat} (x : BitVec n) (y : BitVec m) : BitVec w := x.setWidth w <<< m ||| y.setWidth w

/-- Decoding a command word (R52): first legality (R51), then the command code (R49). -/
def decodeCmd (w : CmdWord) : Instr :=
  let op : BitVec 3 := w.extractLsb' 20 3
  let rsv : BitVec 4 := w.extractLsb' 16 4
  let a : Byte := w.extractLsb' 8 8
  let b : Byte := w.extractLsb' 0 8
  if w.getLsbD 23 then .reservedOp op rsv a b
  else if rsv ≠ 0#4 then .reservedRsv op rsv a b
  else if op = 0#3 then .nop a b
  else if op = 1#3 then .rxread a b
  else if op = 2#3 then .rxcount a b
  else if op = 3#3 then .kbdoff a b
  else if op = 4#3 then .kbdon a b
  else if op = 5#3 then .linktx a b
  else if op = 6#3 then .linkbusy a b
  else .status a b

/-- Decoding a receiver event word (R44): `RXEV[4:1]` selects the row, `RXEV[0]` is the data bit. -/
def decodeRx (w : RxWord) : Instr :=
  let st : BitVec 4 := w.extractLsb' 1 4
  let d := w.getLsbD 0
  if st = 0#4 then .rxStart d
  else if st = 1#4 then .rxBit0 d
  else if st = 2#4 then .rxBit1 d
  else if st = 3#4 then .rxBit2 d
  else if st = 4#4 then .rxBit3 d
  else if st = 5#4 then .rxBit4 d
  else if st = 6#4 then .rxBit5 d
  else if st = 7#4 then .rxBit6 d
  else if st = 8#4 then .rxBit7 d
  else if st = 9#4 then .rxParity d
  else if st = 10#4 then .rxStop d
  else if st = 11#4 then .rxError d
  else .rxUnused (w.extractLsb' 1 2) d

/-- Decoding a translator event word (R46): the rows of one byte take priority over "any other". -/
def decodeTr (w : TrWord) : Instr :=
  let ks : BitVec 2 := w.extractLsb' 8 2
  let b : Byte := w.extractLsb' 0 8
  if ks = 0#2 then
    if b = Config.breakPrefix then .trNormalF0
    else if b = Config.extPrefix then .trNormalE0
    else .trNormalOther b
  else if ks = 1#2 then .trBreak b
  else if ks = 2#2 then
    if b = Config.breakPrefix then .trExtF0 else .trExtOther b
  else .trExtbreak b

/-- A word of one of the three formats. -/
inductive EventWord where
  | cmd (w : CmdWord)
  | rx (w : RxWord)
  | tr (w : TrWord)
  deriving DecidableEq, Repr

/-- Every word of a format decodes (R44 "selects exactly one rule", R46, R52 "total"). -/
def decodeWord : EventWord → Instr
  | .cmd w => decodeCmd w
  | .rx w => decodeRx w
  | .tr w => decodeTr w

/-- The command word `{op, rsv, A, B}` (R48). -/
def cmdWord (op rsv : BitVec 4) (a b : Byte) : CmdWord :=
  let hi : Byte := cat op rsv
  let lo : BitVec 16 := cat a b
  cat hi lo

/-- The receiver's event word `{rx_state, d}` (R44). -/
def rxev (st : BitVec 4) (d : Bool) : RxWord := cat st (BitVec.ofBool d)

/-- The translator's event word `{kstate, byte}` (R46). -/
def trev (ks : BitVec 2) (b : Byte) : TrWord := cat ks b

/-- The encoder, from the same tables: R48, R49 and R51, R44, R46. -/
def encode : Instr → EventWord
  | .nop a b => .cmd (cmdWord 0x0#4 0#4 a b)
  | .rxread a b => .cmd (cmdWord 0x1#4 0#4 a b)
  | .rxcount a b => .cmd (cmdWord 0x2#4 0#4 a b)
  | .kbdoff a b => .cmd (cmdWord 0x3#4 0#4 a b)
  | .kbdon a b => .cmd (cmdWord 0x4#4 0#4 a b)
  | .linktx a b => .cmd (cmdWord 0x5#4 0#4 a b)
  | .linkbusy a b => .cmd (cmdWord 0x6#4 0#4 a b)
  | .status a b => .cmd (cmdWord 0x7#4 0#4 a b)
  | .reservedOp op rsv a b => .cmd (cmdWord (cat 1#1 op) rsv a b)
  | .reservedRsv op rsv a b => .cmd (cmdWord (cat 0#1 op) rsv a b)
  | .rxStart d => .rx (rxev 0#4 d)
  | .rxBit0 d => .rx (rxev 1#4 d)
  | .rxBit1 d => .rx (rxev 2#4 d)
  | .rxBit2 d => .rx (rxev 3#4 d)
  | .rxBit3 d => .rx (rxev 4#4 d)
  | .rxBit4 d => .rx (rxev 5#4 d)
  | .rxBit5 d => .rx (rxev 6#4 d)
  | .rxBit6 d => .rx (rxev 7#4 d)
  | .rxBit7 d => .rx (rxev 8#4 d)
  | .rxParity d => .rx (rxev 9#4 d)
  | .rxStop d => .rx (rxev 10#4 d)
  | .rxError d => .rx (rxev 11#4 d)
  | .rxUnused low d => .rx (rxev (cat 3#2 low) d)
  | .trNormalF0 => .tr (trev 0#2 0xF0#8)
  | .trNormalE0 => .tr (trev 0#2 0xE0#8)
  | .trNormalOther b => .tr (trev 0#2 b)
  | .trBreak b => .tr (trev 1#2 b)
  | .trExtF0 => .tr (trev 2#2 0xF0#8)
  | .trExtOther b => .tr (trev 2#2 b)
  | .trExtbreak b => .tr (trev 3#2 b)

/-! ### Words as bytes and as numbers

The spec stores no word in memory (R31, R41); the byte form below is the model's own (DESIGN CHOICE, log 12):
the least significant byte first, bits above the format's width zero. -/

/-- The three formats. -/
inductive Format where
  | hostCmd
  | rxEvent
  | trEvent
  deriving DecidableEq, Repr

/-- How many bytes hold a word of the format. -/
def Format.bytes : Format → Nat
  | .hostCmd => 3
  | .rxEvent => 1
  | .trEvent => 2

/-- Why a byte sequence is no word of a format. -/
inductive DecodeError where
  /-- fewer bytes than the format's word has -/
  | tooShort
  /-- a bit above the format's width is 1 (RX_EVENT has 5 bits, TR_EVENT 10) -/
  | strayBits
  deriving DecidableEq, Repr

/-- The word of a format whose number is `w`, bit 0 the least significant. -/
def EventWord.ofNat (f : Format) (w : Nat) : Except DecodeError EventWord :=
  match f with
  | .hostCmd => if w < 2 ^ 24 then .ok (.cmd (BitVec.ofNat 24 w)) else .error .strayBits
  | .rxEvent => if w < 2 ^ 5 then .ok (.rx (BitVec.ofNat 5 w)) else .error .strayBits
  | .trEvent => if w < 2 ^ 10 then .ok (.tr (BitVec.ofNat 10 w)) else .error .strayBits

/-- The format of a word. -/
def EventWord.format : EventWord → Format
  | .cmd _ => .hostCmd
  | .rx _ => .rxEvent
  | .tr _ => .trEvent

/-- The number of a word. -/
def EventWord.toNat : EventWord → Nat
  | .cmd w => w.toNat
  | .rx w => w.toNat
  | .tr w => w.toNat

/-- The number whose bytes are `bs`, the least significant first. -/
def bytesToNat : List Byte → Nat
  | [] => 0
  | b :: bs => b.toNat + 256 * bytesToNat bs

/-- The `n` low bytes of a number, the least significant first. -/
def natToBytes : Nat → Nat → List Byte
  | 0, _ => []
  | n + 1, w => BitVec.ofNat 8 w :: natToBytes n (w / 256)

/-- The decoder over bytes: the instruction and the bytes after it, or a rejection by name. -/
def decodeBytes (f : Format) (bs : List Byte) : Except DecodeError (Instr × List Byte) :=
  if bs.length < f.bytes then .error .tooShort
  else match EventWord.ofNat f (bytesToNat (bs.take f.bytes)) with
    | .ok w => .ok (decodeWord w, bs.drop f.bytes)
    | .error e => .error e

/-- The bytes of an instruction. -/
def encodeBytes (i : Instr) : List Byte :=
  natToBytes (encode i).format.bytes (encode i).toNat

/-- Which format a row of `nbits` bits has: RX_EVENT 5 bits (one byte), TR_EVENT 10 bits (two bytes),
HOST_CMD 24 bits (three bytes). -/
def formatOfBits (nbits : Nat) : Format :=
  if nbits ≤ 8 then .rxEvent else if nbits ≤ 16 then .trEvent else .hostCmd

/-- The instruction this decoder reads from the bits `w` of a row of `nbits` bits. -/
def decodeTableWord (nbits w : Nat) : Option Instr :=
  match decodeBytes (formatOfBits nbits) (natToBytes (formatOfBits nbits).bytes w) with
  | .ok (i, _) => some i
  | .error _ => none

/-! ### The opcode table, transcribed -/

/-- A row of spec/opcode_table.json: its mnemonic, its mask and the value under the mask. -/
structure OpRow where
  mnemonic : String
  mask : Nat
  value : Nat
  deriving DecidableEq, Repr

/-- The first row a number matches; a row of one byte stands before the "any other" row it takes
priority over, and RESERVED_RSV, whose condition `rsv != 0` is no mask, stands last (R46, R51). -/
def firstRow (rows : List OpRow) (w : Nat) : Option String :=
  (rows.find? fun r => w &&& r.mask == r.value).map (·.mnemonic)

def hostRows : List OpRow :=
  [⟨"NOP", 0xFF0000, 0x000000⟩, ⟨"RXREAD", 0xFF0000, 0x100000⟩, ⟨"RXCOUNT", 0xFF0000, 0x200000⟩,
   ⟨"KBDOFF", 0xFF0000, 0x300000⟩, ⟨"KBDON", 0xFF0000, 0x400000⟩, ⟨"LINKTX", 0xFF0000, 0x500000⟩,
   ⟨"LINKBUSY", 0xFF0000, 0x600000⟩, ⟨"STATUS", 0xFF0000, 0x700000⟩,
   ⟨"RESERVED_OP", 0x800000, 0x800000⟩, ⟨"RESERVED_RSV", 0x800000, 0x000000⟩]

def rxRows : List OpRow :=
  [⟨"RX_START", 0x1E, 0x00⟩, ⟨"RX_BIT0", 0x1E, 0x02⟩, ⟨"RX_BIT1", 0x1E, 0x04⟩, ⟨"RX_BIT2", 0x1E, 0x06⟩,
   ⟨"RX_BIT3", 0x1E, 0x08⟩, ⟨"RX_BIT4", 0x1E, 0x0A⟩, ⟨"RX_BIT5", 0x1E, 0x0C⟩, ⟨"RX_BIT6", 0x1E, 0x0E⟩,
   ⟨"RX_BIT7", 0x1E, 0x10⟩, ⟨"RX_PARITY", 0x1E, 0x12⟩, ⟨"RX_STOP", 0x1E, 0x14⟩, ⟨"RX_ERROR", 0x1E, 0x16⟩,
   ⟨"RX_UNUSED", 0x18, 0x18⟩]

def trRows : List OpRow :=
  [⟨"TR_NORMAL_F0", 0x3FF, 0x0F0⟩, ⟨"TR_NORMAL_E0", 0x3FF, 0x0E0⟩, ⟨"TR_NORMAL_OTHER", 0x300, 0x000⟩,
   ⟨"TR_BREAK", 0x300, 0x100⟩, ⟨"TR_EXT_F0", 0x3FF, 0x2F0⟩, ⟨"TR_EXT_OTHER", 0x300, 0x200⟩,
   ⟨"TR_EXTBREAK", 0x300, 0x300⟩]

/-- The rows of a format. -/
def opRows : Format → List OpRow
  | .hostCmd => hostRows
  | .rxEvent => rxRows
  | .trEvent => trRows

end Sys2Proof
end

