-- ==== Sys2Proof/Machine/State.lean ====
section
/-! DEFINITION. The state of the block: the event-level registers of 10_state.md rule R16, the hidden
registers of the cycle-level realisation (70_reset_and_hazards.md rule R134) with its registered output
pins (R42, R123), the busy pin input (R57), and the model's own fields (log 1 to 3). -/

namespace Sys2Proof.Machine

/-- Why the machine stops with a fault. -/
inductive Fault where
  /-- The model fault of rule R112 (1): LINKTX with SHARED_PINS while the keyboard interface is enabled
  (raised by `execLinktx` and at cycle level by `linkAccept`), or at cycle level KBDON with SHARED_PINS while
  a transmission is in progress (raised by `cycleCommand`). Safe: the spec gives the run no meaning from there on. -/
  | linkWhileKeyboardEnabled
  deriving DecidableEq, Repr

/-- Why the machine refuses. -/
inductive Refusal where
  /-- An arm of exec without a meaning. No arm of this model is left so. Safe. -/
  | notModelled (mnemonic : String)
  deriving DecidableEq, Repr

/-- The causes of a framing error (R110). -/
inductive FramingCause where
  | start
  | parity
  | stop
  | state
  deriving DecidableEq, Repr

/-- The trace label of a cause (R110). -/
def FramingCause.label : FramingCause → Nat
  | .start => 1
  | .parity => 2
  | .stop => 3
  | .state => 4

/-- What the block shows the outside (R7, R42) or a model may record in its trace (R110). -/
inductive Obs where
  /-- the response to a host command (R50) -/
  | response (r : Rsp)
  /-- a framing error with its cause (R110); the hardware shows nobody the cause -/
  | framingError (c : FramingCause)
  /-- an inhibit pulse of the PS/2 clock line begins (R71) -/
  | inhibitPulse
  /-- a rising edge of the shift clock carrying a bit (R47) -/
  | shiftEdge (b : Bool)
  /-- the latch line's return to 1, which commits the parallel outputs (R56) -/
  | latch (addr flags : Byte)
  deriving DecidableEq, Repr

/-- A step of the event level (R6), and the reset input (R123; log 4). -/
inductive Event where
  /-- a falling edge of the PS/2 clock line whose settled data bit is `d` -/
  | edge (d : Bool)
  /-- a host command word -/
  | cmd (w : CmdWord)
  /-- the LCD sets the busy pin -/
  | pin (b : Bool)
  /-- the reset input is asserted -/
  | reset
  deriving DecidableEq, Repr

/-- The input ports in one clock cycle (R42). -/
structure CycleIn where
  rst : Bool
  ps2Clk : Bool
  ps2Data : Bool
  busy : Bool
  cmdValid : Bool
  cmd : CmdWord
  deriving DecidableEq, Repr

/-- The phase of an edge service (R134). -/
inductive Svc where
  | idle
  | settle
  | inhibit
  | blank
  deriving DecidableEq, Repr

/-- The phase of the link sequencer (R134). -/
inductive LkPhase where
  | idle
  | shift
  | latch
  deriving DecidableEq, Repr

/-- The registers only the cycle-level realisation has (R134), with the registered output pins (R42). -/
structure CycleRegs where
  clkSync : BitVec 2
  dataSync : BitVec 2
  clkPrev : Bool
  svc : Svc
  svcTimer : Nat
  lkPhase : LkPhase
  lkCount : BitVec 5
  lkDiv : Nat
  rspValid : Bool
  srData : Bool
  srClk : Bool
  srLatch : Bool
  deriving DecidableEq, Repr

/-- The reset values of rule R134 and of the pins in rule R123. -/
def CycleRegs.reset : CycleRegs :=
  { clkSync := 0b11#2, dataSync := 0b11#2, clkPrev := true, svc := .idle, svcTimer := 0,
    lkPhase := .idle, lkCount := 0#5, lkDiv := 0, rspValid := false,
    srData := false, srClk := false, srLatch := true }

/-- At which level of rule R6 a run is made (log 1). -/
inductive Level where
  | event
  | cycle
  deriving DecidableEq, Repr

/-- The state of the block and of its pending inputs. -/
structure State where
  /-- R17: 0 AWAIT_START, 1 to 8 BIT0 to BIT7, 9 PARITY, 10 STOP, 11 ERROR, 12 to 15 unused -/
  rxState : BitVec 4
  /-- R18 -/
  rxAcc : Byte
  /-- R19 -/
  kbdEnabled : Bool
  /-- R20 -/
  edgePending : Bool
  /-- R21 -/
  clkDriveLow : Bool
  /-- R22: 0 NORMAL, 1 BREAK, 2 EXTENDED, 3 EXTENDED_BREAK -/
  kstate : BitVec 2
  /-- R23 -/
  mods : Byte
  /-- R24 -/
  buf : Vector Byte Config.cap
  /-- R25 -/
  wr : Cursor
  rd : Cursor
  /-- R26 -/
  outAddr : Byte
  outFlags : Byte
  /-- R27: `{far, near}` -/
  linkSr : BitVec 16
  txBusy : Bool
  /-- R50, R134: the last response, `rsp_r` -/
  rsp : Rsp
  /-- R57: the level of the busy input pin, 1 = busy -/
  busyPin : Bool
  /-- R134: the registers of the cycle-level realisation -/
  cyc : CycleRegs
  /-- the model's own: the level of the run (log 1) -/
  level : Level
  /-- the model's own: the stimuli to come at the event level (log 1) -/
  events : List Event
  /-- the model's own: the input ports in the clock cycles to come, at the cycle level (log 1) -/
  cycles : List CycleIn
  /-- the model's own: the byte handed to the translator within one step (log 2) -/
  handoff : Option Byte
  /-- the model's own: what the block has shown, newest first (log 3) -/
  trace : List Obs
  deriving DecidableEq, Repr

/-- The block right after reset (R16, R123): the input lists and the trace are empty, the buffer entries
and the busy pin have the values of logs 5 and 6. -/
def State.reset : State :=
  { rxState := 0#4, rxAcc := 0x00#8, kbdEnabled := true, edgePending := false, clkDriveLow := false,
    kstate := 0#2, mods := 0x00#8, buf := Vector.replicate Config.cap 0x00#8, wr := 0#3, rd := 0#3,
    outAddr := 0x00#8, outFlags := 0x00#8, linkSr := 0x0000#16, txBusy := false, rsp := 0x000#10,
    busyPin := false, cyc := CycleRegs.reset, level := .event, events := [], cycles := [],
    handoff := none, trace := [] }

end Sys2Proof.Machine
end

