-- ==== Sys2Proof/Machine/Operands.lean ====
section
/-! DEFINITION. The named state codes, the operand forms and the constant tables: receiver and key-event
state names (R17, R22), the bits of a link frame (R47), the translation tables (R30, R87), the output
ports (R42). -/

namespace Sys2Proof.Machine

/-! ### Receiver states (R17) -/

def rxAwaitStart : BitVec 4 := 0#4
def rxBit0 : BitVec 4 := 1#4
def rxBit1 : BitVec 4 := 2#4
def rxBit2 : BitVec 4 := 3#4
def rxBit3 : BitVec 4 := 4#4
def rxBit4 : BitVec 4 := 5#4
def rxBit5 : BitVec 4 := 6#4
def rxBit6 : BitVec 4 := 7#4
def rxBit7 : BitVec 4 := 8#4
def rxParity : BitVec 4 := 9#4
def rxStop : BitVec 4 := 10#4
def rxError : BitVec 4 := 11#4

/-! ### Key-event states (R22) -/

def ksNormal : BitVec 2 := 0#2
def ksBreak : BitVec 2 := 1#2
def ksExtended : BitVec 2 := 2#2
def ksExtendedBreak : BitVec 2 := 3#2

/-! ### The link frame (R47) -/

/-- The bits of a byte, most significant first (R33). -/
def msbFirst (v : Byte) : List Bool :=
  [v.getLsbD 7, v.getLsbD 6, v.getLsbD 5, v.getLsbD 4,
   v.getLsbD 3, v.getLsbD 2, v.getLsbD 1, v.getLsbD 0]

/-- The sixteen bits `s0` to `s15` of a transmission: the address byte, then the flags byte (R47). -/
def linkBits (a f : Byte) : List Bool := msbFirst a ++ msbFirst f

/-- One shift edge of the cascade: the new bit enters the near register, the near register's top bit moves
to the far register (R55). -/
def shiftIn (sr : BitVec 16) (b : Bool) : BitVec 16 := cat (sr.extractLsb' 0 15) (BitVec.ofBool b)

/-- The far register, which is the address register (R55). -/
def farReg (sr : BitVec 16) : Byte := sr.extractLsb' 8 8

/-- The near register, which is the flag register (R55). -/
def nearReg (sr : BitVec 16) : Byte := sr.extractLsb' 0 8

/-! ### The translation tables (R30, R77, R87) -/

inductive TableSel where
  | unshifted
  | shifted
  deriving DecidableEq, Repr

/-- The entries rule R87 fixes: 0x1C gives 'a' and 'A', the four modifier codes are null. -/
def fixedEntry (t : TableSel) (i : Fin Config.tableLen) : Option Byte :=
  if i.val = 0x1C then some (match t with | .unshifted => 0x61#8 | .shifted => 0x41#8)
  else if i.val = 0x11 ∨ i.val = 0x12 ∨ i.val = 0x14 ∨ i.val = 0x59 then some 0x00#8
  else none

/-- `TableRead(T, i)` (R30): every entry rule R87 does not fix is a free value (log 7). -/
def tableRead (t : TableSel) (i : Fin Config.tableLen) : Byte :=
  match fixedEntry t i with
  | some v => v
  | none => match t with
    | .unshifted => Config.unshiftedFree i
    | .shifted => Config.shiftedFree i

/-- The table the shift bits select: LSHIFT is bit 0, RSHIFT bit 1 (R76). -/
def tableSelect (mods : Byte) : TableSel :=
  if mods.getLsbD 0 || mods.getLsbD 1 then .shifted else .unshifted

/-- `lookup(b)` (R77): a code past the table or a null entry gives nothing. -/
def lookup (mods b : Byte) : Option Byte :=
  if h : b.toNat < Config.tableLen then
    let v := tableRead (tableSelect mods) ⟨b.toNat, h⟩
    if v = 0x00#8 then none else some v
  else none

/-! ### The buffer's index space (R29, R89) -/

/-- `BufRead(i)` (R29). -/
def bufRead (buf : Vector Byte Config.cap) (i : Cursor) : Byte := buf[i.toNat]'i.isLt

/-- `BufWrite(i, v)` (R29). -/
def bufWrite (buf : Vector Byte Config.cap) (i : Cursor) (v : Byte) : Vector Byte Config.cap :=
  buf.set i.toNat v i.isLt

/-- The occupancy `(wr - rd) mod CAP` (R89); the 3-bit subtraction is the reduction mod 8. -/
def occupancy (wr rd : Cursor) : Cursor := wr - rd

/-! ### The output ports (R42) -/

structure Ports where
  ps2ClkPull : Bool
  srData : Bool
  srClk : Bool
  srLatch : Bool
  linkAddr : Byte
  linkFlags : Byte
  rspValid : Bool
  rsp : Rsp
  deriving DecidableEq, Repr

/-- The levels the block drives, read from its registers (R42). DESIGN CHOICE (log 22): they depend on the registers
alone, so in the first cycle with `rst = 1` they are still those of the cycle before. -/
def State.ports (s : State) : Ports :=
  { ps2ClkPull := s.clkDriveLow, srData := s.cyc.srData, srClk := s.cyc.srClk, srLatch := s.cyc.srLatch,
    linkAddr := s.outAddr, linkFlags := s.outFlags, rspValid := s.cyc.rspValid, rsp := s.rsp }

end Sys2Proof.Machine
end

