-- ==== Sys2Proof/Machine/Flags.lean ====
section
/-! DEFINITION. Every flag the spec computes: the parity of a byte (R10, R67), the eight modifier bits and
the codes that name them (R23, R78, R79), the ERR and OK bits of a response (R50). -/

namespace Sys2Proof.Machine

/-! ### Parity -/

/-- `xor8(v)`: true when `v` has an odd number of one bits (R10). -/
def xor8 (v : Byte) : Bool :=
  v.getLsbD 0 ^^ v.getLsbD 1 ^^ v.getLsbD 2 ^^ v.getLsbD 3 ^^
  v.getLsbD 4 ^^ v.getLsbD 5 ^^ v.getLsbD 6 ^^ v.getLsbD 7

/-- `popcount(v)` (R10). -/
def popcount (v : Byte) : Nat :=
  (v.getLsbD 0).toNat + (v.getLsbD 1).toNat + (v.getLsbD 2).toNat + (v.getLsbD 3).toNat +
  (v.getLsbD 4).toNat + (v.getLsbD 5).toNat + (v.getLsbD 6).toNat + (v.getLsbD 7).toNat

/-! ### Modifiers (R23) -/

inductive Modifier where
  | lshift
  | rshift
  | lctrl
  | rctrl
  | lalt
  | ralt
  | lwin
  | rwin
  deriving DecidableEq, Repr

/-- The modifier's bit of `mods` as a mask (R23). -/
def Modifier.mask : Modifier → Byte
  | .lshift => 0x01#8
  | .rshift => 0x02#8
  | .lctrl => 0x04#8
  | .rctrl => 0x08#8
  | .lalt => 0x10#8
  | .ralt => 0x20#8
  | .lwin => 0x40#8
  | .rwin => 0x80#8

/-- `modmap(b)`: the non-extended modifier code list (R78). -/
def modmap (b : Byte) : Option Modifier :=
  if b = Config.laltCode then some .lalt
  else if b = Config.lshiftCode then some .lshift
  else if b = Config.lctrlCode then some .lctrl
  else if b = Config.rshiftCode then some .rshift
  else none

/-- `extmodmap(b)`: the extended modifier code list (R79; log 8). -/
def extmodmap (b : Byte) : Option Modifier :=
  if b = Config.raltCode then some .ralt
  else if b = Config.rctrlCode then some .rctrl
  else if b = Config.lguiCode then some .lwin
  else if b = Config.rguiCode then some .rwin
  else none

/-- `mods[m] <- 1`, for a code that names a modifier. -/
def setModifier (mods : Byte) : Option Modifier → Byte
  | some m => mods ||| m.mask
  | none => mods

/-- `mods[m] <- 0`, for a code that names a modifier. -/
def clearModifier (mods : Byte) : Option Modifier → Byte
  | some m => mods &&& ~~~m.mask
  | none => mods

/-! ### The response word -/

/-- `{ERR, OK, DATA}` (R50). -/
def mkRsp (ok err : Bool) (data : Byte) : Rsp :=
  let flags : BitVec 2 := cat (BitVec.ofBool err) (BitVec.ofBool ok)
  cat flags data

/-- The fields of a response (R50). -/
def rspErr (r : Rsp) : Bool := r.getLsbD 9
def rspOk (r : Rsp) : Bool := r.getLsbD 8
def rspData (r : Rsp) : Byte := r.extractLsb' 0 8

end Sys2Proof.Machine
end

