-- ==== Sys2Proof/Machine/Ops.lean ====
section
/-! DEFINITION. The operations several meanings share: responding to a command (R50), recording in the
trace, the framing error and the recovery it leads to (R71, R110), push (R90), shift and latch of the
link (R55, R56), reset (R123), and the sequencing of outcomes. -/

namespace Sys2Proof.Machine

/-- The outcome of a meaning. -/
abbrev Res := Host.Outcome State Fault Refusal

/-- Sequencing: the second part runs where the first answers a next state. -/
def andThen (o : Res) (f : State → Res) : Res :=
  match o with
  | .next s => f s
  | .fault r => .fault r
  | .refused r => .refused r

/-- Record an observation (log 3). -/
def observe (o : Obs) (s : State) : State := { s with trace := o :: s.trace }

/-- `respond(ok, err, data)` (R50). -/
def respond (ok err : Bool) (data : Byte) (s : State) : State :=
  { s with rsp := mkRsp ok err data, trace := .response (mkRsp ok err data) :: s.trace }

/-- `push(v)` (R90): write the entry at the write cursor, then advance the cursor mod CAP. -/
def push (v : Byte) (s : State) : State :=
  { s with buf := bufWrite s.buf s.wr v, wr := s.wr + 1#3 }

/-- The sampled bit enters the accumulator at bit 7, bit 0 is discarded (R32, R65). -/
def shiftAcc (d : Bool) (acc : Byte) : Byte := cat (BitVec.ofBool d) (acc.extractLsb' 1 7)

/-- A data bit is taken and the receiver advances to `next` (R65, R66). -/
def takeBit (d : Bool) (next : BitVec 4) (s : State) : State :=
  { s with rxAcc := shiftAcc d s.rxAcc, rxState := next }

/-- The counterpart of exception entry: a framing error moves the receiver to ERROR; no register records
the cause, only the model's trace does (R110, R114). -/
def raiseFraming (c : FramingCause) (s : State) : State :=
  { s with rxState := rxError, trace := .framingError c :: s.trace }

/-- The counterpart of the return: `recovery()` (R71). At the event level the pulse begins and ends within
the step, so the clock line is released again and the pulse shows in the trace. -/
def recovery (s : State) : State :=
  { s with clkDriveLow := false, rxState := rxAwaitStart, trace := .inhibitPulse :: s.trace }

/-- The final test of rule R63. -/
def recoverIfError (s : State) : State := if s.rxState = rxError then recovery s else s

/-- One shift edge of the link (R47, R55). -/
def shiftEdge (b : Bool) (s : State) : State :=
  { s with linkSr := shiftIn s.linkSr b, trace := .shiftEdge b :: s.trace }

/-- Shift edges in order. -/
def shiftEdges : List Bool → State → State
  | [], s => s
  | b :: bs, s => shiftEdges bs (shiftEdge b s)

/-- The latch line's 0-to-1 transition: far register to `out_addr`, near register to `out_flags`, in one
step (R56). -/
def latchOutputs (s : State) : State :=
  { s with outAddr := farReg s.linkSr, outFlags := nearReg s.linkSr,
           trace := .latch (farReg s.linkSr) (nearReg s.linkSr) :: s.trace }

/-- The fault of rule R112 (1) is due: a link use while the pins are shared and the keyboard interface is
enabled. -/
def linkForbidden (s : State) : Bool := Config.sharedPins && s.kbdEnabled

/-- The reset input (R123): every register of the block takes its reset value; the environment's busy pin,
the pending inputs and the trace are no registers of the block (log 4). -/
def resetBlock (s : State) : State :=
  { State.reset with busyPin := s.busyPin, level := s.level, events := s.events, cycles := s.cycles,
                     trace := s.trace }

end Sys2Proof.Machine
end

