-- ==== Sys2Proof/Machine/Buffer.lean ====
section
/-! DEFINITION. The buffer commands RXREAD and RXCOUNT (43_buffer.md). -/

namespace Sys2Proof.Machine

/-- RXREAD (R91): an empty buffer answers OK = 0 and changes nothing else; otherwise the entry at `rd` is
returned and `rd` advances. -/
def execRxread (s : State) : Res :=
  .next (if s.wr = s.rd then respond false false 0x00#8 s
    else respond true false (bufRead s.buf s.rd) { s with rd := s.rd + 1#3 })

/-- RXCOUNT (R92): the occupancy as an 8-bit count. -/
def execRxcount (s : State) : Res :=
  .next (respond true false ((occupancy s.wr s.rd).setWidth 8) s)

end Sys2Proof.Machine
end

