-- ==== Sys2Proof/Machine/Control.lean ====
section
/-! DEFINITION. The control and status commands (44_control.md): KBDOFF, KBDON, STATUS, NOP, and the
illegal command words. -/

namespace Sys2Proof.Machine

/-- NOP (R100). -/
def execNop (s : State) : Res := .next (respond true false 0x00#8 s)

/-- KBDOFF (R97). -/
def execKbdoff (s : State) : Res :=
  .next (respond true false 0x00#8 { s with kbdEnabled := false, clkDriveLow := true })

/-- What KBDON re-initialises besides the receiver under `KBDON_REINIT = FULL` (R98). -/
def reinitTranslator (s : State) : State :=
  match Config.kbdonReinit with
  | .full => { s with kstate := ksNormal, mods := 0x00#8, wr := 0#3, rd := 0#3 }
  | .receiverOnly => s

/-- KBDON (R98). -/
def execKbdon (s : State) : Res :=
  .next (respond true false 0x00#8
    { reinitTranslator s with
      rxState := rxAwaitStart, rxAcc := 0x00#8, edgePending := false, clkDriveLow := false,
      kbdEnabled := true })

/-- STATUS (R99): `{000000, kbd_enabled, tx_busy}`. -/
def execStatus (s : State) : Res :=
  .next (respond true false (cat (BitVec.ofBool s.kbdEnabled) (BitVec.ofBool s.txBusy)) s)

/-- The answer to an illegal word: ERR = 1 and no state change (R101). -/
def answerIllegal (s : State) : State := respond false true 0x00#8 s

/-- A word with `op` from 0x8 to 0xF (R101). -/
def execReservedOp (s : State) : Res := .next (answerIllegal s)

/-- A word with `op` from 0x0 to 0x7 and `rsv` not 0 (R101). -/
def execReservedRsv (s : State) : Res := .next (answerIllegal s)

end Sys2Proof.Machine
end

