-- ==== Sys2Proof/Machine/Link.lean ====
section
/-! DEFINITION. The link commands LINKTX and LINKBUSY (40_link.md). -/

namespace Sys2Proof.Machine

/-- LINKTX (R59): sixteen shift edges and the latch in one atomic step; the fault of rule R112 where the
keyboard interface is enabled on shared pins; refused with OK = 0 while a transmission is in progress. -/
def execLinktx (a f : Byte) (s : State) : Res :=
  if linkForbidden s then .fault .linkWhileKeyboardEnabled
  else .next (if s.txBusy then respond false false 0x00#8 s
    else respond true false 0x00#8 (latchOutputs (shiftEdges (linkBits a f) s)))

/-- LINKBUSY (R60): the level of the busy pin. -/
def execLinkbusy (s : State) : Res :=
  .next (respond true false (BitVec.setWidth 8 (BitVec.ofBool s.busyPin)) s)

end Sys2Proof.Machine
end

