-- ==== Sys2Proof/Machine/Receiver.lean ====
section
/-! DEFINITION. The receiver's state rules, "step 2" of rule R63 (41_receiver.md). Rule R63's final test and
the translator's step for a completed byte follow within the same step (Machine/Pipeline.lean). -/

namespace Sys2Proof.Machine

/-- RX_START (R64). -/
def execRxStart (d : Bool) (s : State) : Res :=
  .next (if d then raiseFraming .start s else { s with rxAcc := 0x00#8, rxState := rxBit0 })

/-- RX_BIT in BIT0 to BIT6 (R65), RX_BIT7 (R66). -/
def execRxBit0 (d : Bool) (s : State) : Res := .next (takeBit d rxBit1 s)
def execRxBit1 (d : Bool) (s : State) : Res := .next (takeBit d rxBit2 s)
def execRxBit2 (d : Bool) (s : State) : Res := .next (takeBit d rxBit3 s)
def execRxBit3 (d : Bool) (s : State) : Res := .next (takeBit d rxBit4 s)
def execRxBit4 (d : Bool) (s : State) : Res := .next (takeBit d rxBit5 s)
def execRxBit5 (d : Bool) (s : State) : Res := .next (takeBit d rxBit6 s)
def execRxBit6 (d : Bool) (s : State) : Res := .next (takeBit d rxBit7 s)
def execRxBit7 (d : Bool) (s : State) : Res := .next (takeBit d rxParity s)

/-- RX_PARITY (R67): the check passes when `xor8(rx_acc) xor d` is 1. -/
def execRxParity (d : Bool) (s : State) : Res :=
  .next (if xor8 s.rxAcc ^^ d then { s with rxState := rxStop } else raiseFraming .parity s)

/-- RX_STOP (R68): a good stop bit hands the byte to the translator and returns to AWAIT_START. -/
def execRxStop (d : Bool) (s : State) : Res :=
  .next (if d then { s with handoff := some s.rxAcc, rxState := rxAwaitStart } else raiseFraming .stop s)

/-- RX_ERRSTATE (R69): the state rule changes no register; the edge is the framing error STATE. -/
def execRxError (s : State) : Res := .next (observe (.framingError .state) s)

/-- RX_ILLEGAL (R70): an unused state goes to ERROR. -/
def execRxUnused (s : State) : Res := .next (raiseFraming .state s)

end Sys2Proof.Machine
end

