-- ==== Sys2Proof/Machine/Translator.lean ====
section
/-! DEFINITION. The translator's event rules (42_translator.md). -/

namespace Sys2Proof.Machine

/-- T_NORM_F0 (R80). -/
def execTrNormalF0 (s : State) : Res := .next { s with kstate := ksBreak }

/-- T_NORM_E0 (R81). -/
def execTrNormalE0 (s : State) : Res := .next { s with kstate := ksExtended }

/-- A byte that gives no character: a modifier code sets its bit, the Escape code pushes the sentinel (R82). -/
def noCharacter (b : Byte) (s : State) : State :=
  let t := { s with mods := setModifier s.mods (modmap b) }
  if b = Config.escCode then push Config.sentinel t else t

/-- T_NORM_OTHER (R82): a character is pushed "and stop"; otherwise the modifier and Escape tests. -/
def execTrNormalOther (b : Byte) (s : State) : Res :=
  .next (match lookup s.mods b with
    | some v => push v s
    | none => noCharacter b s)

/-- T_BREAK (R83). -/
def execTrBreak (b : Byte) (s : State) : Res :=
  .next { s with mods := clearModifier s.mods (modmap b), kstate := ksNormal }

/-- T_EXT_F0 (R84). -/
def execTrExtF0 (s : State) : Res := .next { s with kstate := ksExtendedBreak }

/-- T_EXT_OTHER (R85). -/
def execTrExtOther (b : Byte) (s : State) : Res :=
  .next { s with mods := setModifier s.mods (extmodmap b), kstate := ksNormal }

/-- T_EXTBREAK (R86). -/
def execTrExtbreak (b : Byte) (s : State) : Res :=
  .next { s with mods := clearModifier s.mods (extmodmap b), kstate := ksNormal }

end Sys2Proof.Machine
end

