-- ==== Sys2Proof/Machine/Dispatch.lean ====
section
/-! DEFINITION. One arm per row of the opcode table: the meaning of the instruction. -/

namespace Sys2Proof.Machine

def exec (i : Instr) (s : State) : Host.Outcome State Fault Refusal :=
  match i with
  -- host commands
  | .nop _ _ => Sys2Proof.Machine.execNop s
  | .rxread _ _ => Sys2Proof.Machine.execRxread s
  | .rxcount _ _ => Sys2Proof.Machine.execRxcount s
  | .kbdoff _ _ => Sys2Proof.Machine.execKbdoff s
  | .kbdon _ _ => Sys2Proof.Machine.execKbdon s
  | .linktx a b => Sys2Proof.Machine.execLinktx a b s
  | .linkbusy _ _ => Sys2Proof.Machine.execLinkbusy s
  | .status _ _ => Sys2Proof.Machine.execStatus s
  | .reservedOp _ _ _ _ => Sys2Proof.Machine.execReservedOp s
  | .reservedRsv _ _ _ _ => Sys2Proof.Machine.execReservedRsv s
  -- receiver events
  | .rxStart d => Sys2Proof.Machine.execRxStart d s
  | .rxBit0 d => Sys2Proof.Machine.execRxBit0 d s
  | .rxBit1 d => Sys2Proof.Machine.execRxBit1 d s
  | .rxBit2 d => Sys2Proof.Machine.execRxBit2 d s
  | .rxBit3 d => Sys2Proof.Machine.execRxBit3 d s
  | .rxBit4 d => Sys2Proof.Machine.execRxBit4 d s
  | .rxBit5 d => Sys2Proof.Machine.execRxBit5 d s
  | .rxBit6 d => Sys2Proof.Machine.execRxBit6 d s
  | .rxBit7 d => Sys2Proof.Machine.execRxBit7 d s
  | .rxParity d => Sys2Proof.Machine.execRxParity d s
  | .rxStop d => Sys2Proof.Machine.execRxStop d s
  | .rxError _ => Sys2Proof.Machine.execRxError s
  | .rxUnused _ _ => Sys2Proof.Machine.execRxUnused s
  -- translator events
  | .trNormalF0 => Sys2Proof.Machine.execTrNormalF0 s
  | .trNormalE0 => Sys2Proof.Machine.execTrNormalE0 s
  | .trNormalOther b => Sys2Proof.Machine.execTrNormalOther b s
  | .trBreak b => Sys2Proof.Machine.execTrBreak b s
  | .trExtF0 => Sys2Proof.Machine.execTrExtF0 s
  | .trExtOther b => Sys2Proof.Machine.execTrExtOther b s
  | .trExtbreak b => Sys2Proof.Machine.execTrExtbreak b s

end Sys2Proof.Machine
end

