-- ==== Sys2Proof/Machine/Pipeline.lean ====
section
/-! DEFINITION. The event level (00_scope.md rules R5, R6): the receive pipeline's atomic step for an edge
(R63), the other stimuli, and placing one instruction where the next step runs it. -/

namespace Sys2Proof.Machine

/-- The translator's step for the byte handed over, if there is one (R75): its event word joins `kstate` and
the byte (R46). -/
def runTranslator (s : State) : Res :=
  match s.handoff with
  | none => .next s
  | some b => exec (decodeTr (trev s.kstate b)) { s with handoff := none }

/-- The state rule of rule R63 for a data bit, with the translator's step and push it may lead to: the event
word joins `rx_state` and the bit (R44). -/
def receive (d : Bool) (s : State) : Res :=
  andThen (exec (decodeRx (rxev s.rxState d)) s) runTranslator

/-- `EDGE(d)` (R61, R63): a no-op while the keyboard interface is disabled; otherwise the state rule, the
translator and the final test with recovery, as one atomic step. -/
def edgeStep (d : Bool) (s : State) : Res :=
  if s.kbdEnabled then andThen (receive d s) fun t => .next (recoverIfError t) else .next s

/-- One stimulus (R6). -/
def applyEvent : Event → State → Res
  | .edge d, s => edgeStep d s
  | .cmd w, s => exec (decodeCmd w) s
  | .pin b, s => .next { s with busyPin := b }
  | .reset, s => .next (resetBlock s)

/-- One step of the event level: the next stimulus of the list, and nothing where no agent takes a step
(log 1). A byte that is still handed over is translated first: between events there is none (log 2). -/
def eventStep (s : State) : Res :=
  match s.handoff with
  | some _ => runTranslator s
  | none =>
    match s.events with
    | [] => .next s
    | e :: es => applyEvent e { s with events := es }

/-- Place a word where the next step runs it (log 13): a host command as the next stimulus; a receiver
event as the receiver state and the next edge; a translator event as the key-event state and the byte
handed over. -/
def placeWord (w : EventWord) (s : State) : State :=
  match w with
  | .cmd w => { s with level := .event, handoff := none, events := .cmd w :: s.events }
  | .rx w =>
    { s with level := .event, handoff := none, kbdEnabled := true, rxState := w.extractLsb' 1 4,
             events := .edge (w.getLsbD 0) :: s.events }
  | .tr w =>
    { s with level := .event, kstate := w.extractLsb' 8 2, handoff := some (w.extractLsb' 0 8) }

/-- Place the word whose number is `w` in a row of `nbits` bits; a number that is no word of the format
changes nothing. -/
def placeNumber (nbits w : Nat) (s : State) : State :=
  match EventWord.ofNat (formatOfBits nbits) w with
  | .ok ew => placeWord ew s
  | .error _ => s

end Sys2Proof.Machine
end

