-- ==== Sys2Proof/Machine/Cycle.lean ====
section
/-! DEFINITION. The cycle-level realisation (70_reset_and_hazards.md rules R134 to R141): one clock cycle,
with the cycle counts as an argument. All registers are written at the end of the cycle from their values
before it; where a command and an edge service fall in one cycle the command is taken first (R116, R140; log 14). -/

namespace Sys2Proof.Machine

/-! ### Edge detection (R135) -/

/-- A fall is detected: `clk_prev = 1` and `clk_sync[1] = 0`. -/
def fallDetected (c : CycleRegs) : Bool := c.clkPrev && !c.clkSync.getLsbD 1

/-- The three sampling registers take their next values. -/
def sampleLines (i : CycleIn) (c : CycleRegs) : CycleRegs :=
  { c with clkSync := cat (c.clkSync.extractLsb' 0 1) (BitVec.ofBool i.ps2Clk),
           dataSync := cat (c.dataSync.extractLsb' 0 1) (BitVec.ofBool i.ps2Data),
           clkPrev := c.clkSync.getLsbD 1 }

/-- In the phases IDLE and SETTLE a fall is latched, in INHIBIT and BLANK it is discarded (R135, R138). -/
def latchingPhase : Svc → Bool
  | .idle => true
  | .settle => true
  | .inhibit => false
  | .blank => false

/-! ### Host commands (R139) -/

/-- The command presented in the cycle, decoded. -/
def cycleCmd (i : CycleIn) : Option Instr := if i.cmdValid then some (decodeCmd i.cmd) else none

/-- The command is a legal KBDON. -/
def isKbdon : Option Instr → Bool
  | some (.kbdon _ _) => true
  | _ => false

/-- The command is a legal KBDOFF or KBDON: it ends an edge service at once (R138). -/
def endsService : Option Instr → Bool
  | some (.kbdon _ _) => true
  | some (.kbdoff _ _) => true
  | _ => false

/-- LINKTX at the cycle level (R59, R141): the fault of rule R112, a refusal with OK = 0 while busy, or the
start of the link sequencer, which holds the bits to send in `link_sr`; `lk_div` starts one count longer, the
cycle in which the first bit is put on the pin (log 17). -/
def linkAccept (p : Config.Timing) (a f : Byte) (s : State) : Res :=
  if linkForbidden s then .fault .linkWhileKeyboardEnabled
  else .next (if s.txBusy then respond false false 0x00#8 s
    else respond true false 0x00#8
      { s with txBusy := true, linkSr := cat a f,
               cyc := { s.cyc with lkPhase := .shift, lkCount := 0#5, lkDiv := p.shiftDiv } })

/-- A command's effect at the cycle level: its event-level effect (R139), but LINKTX starts the sequencer and
KBDON on shared pins during a transmission is the fault of rules R112 and R130. -/
def cycleExec (p : Config.Timing) (i : Instr) (s : State) : Res :=
  match i with
  | .linktx a f => linkAccept p a f s
  | .kbdon a b => if Config.sharedPins && s.txBusy then .fault .linkWhileKeyboardEnabled else exec (.kbdon a b) s
  | i => exec i s

/-- The cycle's command, if one is presented; `rsp_valid` is 1 in the next cycle exactly then (R139). -/
def cycleCommand (p : Config.Timing) (i : CycleIn) (s : State) : Res :=
  match cycleCmd i with
  | some instr => andThen (cycleExec p instr s) fun t => .next { t with cyc := { t.cyc with rspValid := true } }
  | none => .next { s with cyc := { s.cyc with rspValid := false } }

/-! ### Edge service (R136) -/

/-- A framing error at the sample: ERROR is held and the inhibit pulse begins (R136, R138). -/
def beginInhibit (p : Config.Timing) (s : State) : State :=
  { s with rxState := rxError, clkDriveLow := true, trace := .inhibitPulse :: s.trace,
           cyc := { s.cyc with svc := .inhibit, svcTimer := p.inhibitCycles } }

/-- The end of SETTLE after the state rule: the pulse begins in ERROR or an unused state, else IDLE (R136). -/
def afterSample (p : Config.Timing) (s : State) : State :=
  if rxError ≤ s.rxState then beginInhibit p s else { s with cyc := { s.cyc with svc := .idle } }

/-- The sample at the end of SETTLE: an edge is taken only while the keyboard interface is enabled (R61; log 16). -/
def sampleEdge (p : Config.Timing) (d : Bool) (s : State) : Res :=
  if s.kbdEnabled then andThen (receive d s) fun t => .next (afterSample p t)
  else .next { s with cyc := { s.cyc with svc := .idle } }

/-- One cycle of the edge service (R136); `d` is `data_sync[1]`. -/
def serviceCycle (p : Config.Timing) (d : Bool) (s : State) : Res :=
  match s.cyc.svc with
  | .idle =>
    .next (if s.edgePending then
      { s with edgePending := false, cyc := { s.cyc with svc := .settle, svcTimer := p.settleCycles } } else s)
  | .settle =>
    if 0 < s.cyc.svcTimer then .next { s with cyc := { s.cyc with svcTimer := s.cyc.svcTimer - 1 } }
    else sampleEdge p d s
  | .inhibit =>
    .next (if 0 < s.cyc.svcTimer then { s with cyc := { s.cyc with svcTimer := s.cyc.svcTimer - 1 } }
      else { s with clkDriveLow := false, rxState := rxAwaitStart,
                    cyc := { s.cyc with svc := .blank, svcTimer := p.blankCycles } })
  | .blank =>
    .next (if 0 < s.cyc.svcTimer then { s with cyc := { s.cyc with svcTimer := s.cyc.svcTimer - 1 } }
      else { s with cyc := { s.cyc with svc := .idle } })

/-- KBDOFF or KBDON during a service (R138): in SETTLE the service is dropped, in INHIBIT and BLANK it
completes at once; `clk_drive_low` has the value the command gave it. -/
def endService (s : State) : State :=
  { s with rxState := match s.cyc.svc with
             | .idle => s.rxState
             | .settle => s.rxState
             | .inhibit => rxAwaitStart
             | .blank => rxAwaitStart,
           edgePending := false, cyc := { s.cyc with svc := .idle, svcTimer := 0 } }

/-- The command of this cycle ends a service in progress. -/
def serviceEnded (i : CycleIn) (s : State) : Bool := endsService (cycleCmd i) && s.cyc.svc != .idle

/-- The service part of the cycle, after the command. -/
def cycleService (p : Config.Timing) (i : CycleIn) (d : Bool) (s : State) : Res :=
  if serviceEnded i s then .next (endService s) else serviceCycle p d s

/-- A fall of this cycle sets `edge_pending` (R135), unless the command of the cycle is KBDON or has ended a
service (R138); a fall in the cycle in which IDLE takes the pending edge stays pending (log 15). Rule R135's
conditions alone decide, whoever made the fall: one that the block's own pull makes is latched too if an early KBDON
has enabled the interface before it reaches `clk_sync[1]` (log 21). -/
def latchFall (i : CycleIn) (before s : State) : State :=
  if fallDetected before.cyc && before.kbdEnabled && latchingPhase before.cyc.svc &&
      !isKbdon (cycleCmd i) && !serviceEnded i before then
    { s with edgePending := true }
  else s

/-! ### The link sequencer (R141) -/

/-- Bit `15 - k` of the frame held in `link_sr`. -/
def frameBit (sr : BitVec 16) (k : BitVec 5) : Bool := sr.getLsbD (15 - k.toNat)

/-- One cycle in SHIFT (R141): the low half of a bit, then the rising edge `s_k`, then the high half; after
`s15`'s high half the phase is LATCH. -/
def shiftCycle (p : Config.Timing) (s : State) : State :=
  let c := s.cyc
  if c.srClk then
    if 0 < c.lkDiv then { s with cyc := { c with lkDiv := c.lkDiv - 1 } }
    else if c.lkCount.toNat < 16 then
      { s with cyc := { c with srClk := false, srData := frameBit s.linkSr c.lkCount, lkDiv := p.shiftDiv - 1 } }
    else { s with cyc := { c with srClk := false, lkPhase := .latch, lkDiv := p.shiftDiv - 1 } }
  else if c.lkDiv = p.shiftDiv then
    { s with cyc := { c with srData := frameBit s.linkSr c.lkCount, lkDiv := p.shiftDiv - 1 } }
  else if 0 < c.lkDiv then { s with cyc := { c with lkDiv := c.lkDiv - 1 } }
  else
    { s with trace := .shiftEdge c.srData :: s.trace,
             cyc := { c with srClk := true, lkCount := c.lkCount + 1#5, lkDiv := p.shiftDiv - 1 } }

/-- One cycle in LATCH (R141): the shift clock low for `SHIFT_DIV` cycles, the latch line low for
`SHIFT_DIV` cycles, then the latch line's return to 1 with the commit (log 17). -/
def latchCycle (p : Config.Timing) (s : State) : State :=
  let c := s.cyc
  if 0 < c.lkDiv then { s with cyc := { c with lkDiv := c.lkDiv - 1 } }
  else if c.srLatch then { s with cyc := { c with srLatch := false, lkDiv := p.shiftDiv - 1 } }
  else latchOutputs { s with txBusy := false, cyc := { c with srLatch := true, lkPhase := .idle } }

/-- One cycle of the link sequencer, by the phase before the cycle. -/
def linkCycle (p : Config.Timing) (ph : LkPhase) (s : State) : State :=
  match ph with
  | .idle => s
  | .shift => shiftCycle p s
  | .latch => latchCycle p s

/-! ### The whole cycle -/

/-- One clock cycle with `rst = 0`: the command, the edge service, the link sequencer, edge detection. -/
def runCycle (p : Config.Timing) (i : CycleIn) (s : State) : Res :=
  andThen (cycleCommand p i s) fun t =>
    andThen (cycleService p i (s.cyc.dataSync.getLsbD 1) t) fun u =>
      let v := latchFall i s (linkCycle p s.cyc.lkPhase u)
      .next { v with cyc := sampleLines i v.cyc }

/-- One clock cycle (R123, R135 to R141): the busy pin's level is that of its port (R57). Reset is synchronous: with
`rst = 1` the registers, and with them the output ports, have their reset values from the end of the cycle on, and a
response registered in the cycle before still shows in the first such cycle (log 22). -/
def clockCycle (p : Config.Timing) (i : CycleIn) (s : State) : Res :=
  if i.rst then .next (resetBlock { s with busyPin := i.busy })
  else runCycle p i { s with busyPin := i.busy }

/-- One step of the cycle level: the next cycle of the list, and nothing where there is none (log 1). -/
def cycleStep (s : State) : Res :=
  match s.cycles with
  | [] => .next s
  | i :: is => clockCycle Config.timing i { s with cycles := is }

end Sys2Proof.Machine
end

