-- ==== Sys2Proof/Machine/Step.lean ====
section
/-! DEFINITION. The step of the machine, at the level of the run (R6; log 1), and where an instruction is
placed to be run next. -/

namespace Sys2Proof.Machine

/-- One step: a stimulus at the event level, a clock cycle at the cycle level. -/
def step (s : State) : Host.Outcome State Fault Refusal :=
  match s.level with
  | .event => eventStep s
  | .cycle => cycleStep s

/-- `s` with the instruction whose bits are `w` placed where the next step runs it (log 13). -/
def State.withFetchWord (s : State) (nbits w : Nat) : State := placeNumber nbits w s

end Sys2Proof.Machine
end

