-- ==== Sys2Proof/Machine/Stimuli.lean ====
section
/-! DEFINITION. The command words and pseudo-statements of 30_encoding.md rules R53 and R54, as lists of
event-level stimuli, and the host library's read (43_buffer.md rule R96). -/

namespace Sys2Proof.Machine

/-- The words of the commands without operands, `A = B = 0x00` (R53). -/
def wordNop : CmdWord := cmdWord 0x0#4 0#4 0#8 0#8
def wordRxread : CmdWord := cmdWord 0x1#4 0#4 0#8 0#8
def wordRxcount : CmdWord := cmdWord 0x2#4 0#4 0#8 0#8
def wordKbdoff : CmdWord := cmdWord 0x3#4 0#4 0#8 0#8
def wordKbdon : CmdWord := cmdWord 0x4#4 0#4 0#8 0#8
def wordLinkbusy : CmdWord := cmdWord 0x6#4 0#4 0#8 0#8
def wordStatus : CmdWord := cmdWord 0x7#4 0#4 0#8 0#8

/-- `LINKTX <address>, <flags>` (R53). -/
def wordLinktx (a f : Byte) : CmdWord := cmdWord 0x5#4 0#4 a f

/-- The data bits of a frame in order of arrival, least significant first (R32, R43). -/
def lsbFirst (b : Byte) : List Bool :=
  [b.getLsbD 0, b.getLsbD 1, b.getLsbD 2, b.getLsbD 3,
   b.getLsbD 4, b.getLsbD 5, b.getLsbD 6, b.getLsbD 7]

/-- `FRAMEX <b>, <s>, <p>, <e>` (R54). -/
def frameX (b : Byte) (st p e : Bool) : List Event :=
  (st :: lsbFirst b ++ [p, e]).map .edge

/-- The parity bit of a valid frame: `P = not xor8(byte)` (R43). -/
def goodParity (b : Byte) : Bool := !xor8 b

/-- `FRAME <b>`: a valid frame (R54). -/
def frame (b : Byte) : List Event := frameX b false (goodParity b) true

/-- `BADPARITY <b>` (R54). -/
def badParity (b : Byte) : List Event := frameX b false (!goodParity b) true

/-- `KEY`, `KEYUP`, `EKEY`, `EKEYUP` (R54). -/
def key (c : Byte) : List Event := frame c
def keyUp (c : Byte) : List Event := frame Config.breakPrefix ++ frame c
def ekey (c : Byte) : List Event := frame Config.extPrefix ++ frame c
def ekeyUp (c : Byte) : List Event := frame Config.extPrefix ++ frame Config.breakPrefix ++ frame c

/-- `LCDSESSION ... END`: the bracket of rule R102 (R54). -/
def lcdSession (es : List Event) : List Event := .cmd wordKbdoff :: es ++ [.cmd wordKbdon]

/-- The command the host library's `read(outSlot)` issues: none where the caller passed no destination (R96;
host software, outside the block). -/
def hostRead (hasDestination : Bool) : Option CmdWord := if hasDestination then some wordRxread else none

end Sys2Proof.Machine
end

