-- ==== Sys2Proof/Machine/LcdClient.lean ====
section
/-! DEFINITION. The LCD client of 45_lcd_client.md: HOST SOFTWARE, outside the block (R4), written out so that
claims about a host that drives the link can be stated. It adds no behaviour to the machine (log 20). -/

namespace Sys2Proof.Machine

/-! ### The flags byte (R103) -/

def flagE : Byte := 0x01#8
def flagRW : Byte := 0x02#8
def flagRS : Byte := 0x04#8
def flagAUX : Byte := 0x08#8

/-! ### The client's program and its execution -/

/-- One thing the client does: a `transmit` call, or `wait()` (R104, R105). -/
inductive ClientOp where
  | transmit (a f : Byte)
  | wait
  deriving DecidableEq, Repr

/-- Where the client stands inside LCDWAIT (R105): before the enable-low half of a probe, before the
enable-high half, before the sample, before the neutral transmission. -/
inductive WaitPhase where
  | probeLow
  | probeHigh
  | sample
  | neutral
  deriving DecidableEq, Repr

/-- The client: what is left to do, and its place inside the wait at the head of it. -/
structure Client where
  ops : List ClientOp
  phase : WaitPhase
  deriving DecidableEq, Repr

/-- A client about to start a program. -/
def Client.start (ops : List ClientOp) : Client := { ops := ops, phase := .probeLow }

/-- The command word the client issues next; none when it has finished (R104, R105). -/
def Client.command (c : Client) : Option CmdWord :=
  match c.ops with
  | [] => none
  | .transmit a f :: _ => some (wordLinktx a f)
  | .wait :: _ =>
    match c.phase with
    | .probeLow => some (wordLinktx Config.waitAddr flagRW)
    | .probeHigh => some (wordLinktx Config.waitAddr (flagRW ||| flagE))
    | .sample => some wordLinkbusy
    | .neutral => some (wordLinktx Config.waitAddr flagRW)

/-- The client after the response to that command: a wait leaves its loop at the first LINKBUSY that reads
0, and is never bounded (R105, R109). DESIGN CHOICE (log 20): rule R109 names a serial-completion wait and file 45
gives no commands for it, so this client makes none: it issues no STATUS and goes on after a LINKTX whatever its `OK`.
It is a client of the event level, where a LINKTX is complete when it answers; at the cycle level rule R130 (2) asks
the host to poll STATUS as well. -/
def Client.answer (r : Rsp) (c : Client) : Client :=
  match c.ops with
  | [] => c
  | .transmit _ _ :: ops => { ops := ops, phase := .probeLow }
  | .wait :: ops =>
    match c.phase with
    | .probeLow => { c with phase := .probeHigh }
    | .probeHigh => { c with phase := .sample }
    | .sample => if (rspData r).getLsbD 0 then { c with phase := .probeLow } else { c with phase := .neutral }
    | .neutral => { ops := ops, phase := .probeLow }

/-! ### The client's operations -/

/-- `LCDWRITE(x, ctl)` (R104): enable high, then low; no wait of its own (90_conflicts.md C8). -/
def lcdWrite (x ctl : Byte) : List ClientOp := [.transmit x (ctl ||| flagE), .transmit x ctl]

/-- `LCDCHAR(c)` (R106). -/
def lcdChar (c : Byte) : List ClientOp := lcdWrite c flagRS ++ [.wait]

/-- A command write followed by a wait (R107). -/
def lcdCommand (x : Byte) : List ClientOp := lcdWrite x 0x00#8 ++ [.wait]

/-- `init()` (R107); the three command bytes are PRESUMED, HD44780's (G8; log 20). -/
def lcdInit : List ClientOp := lcdCommand 0x38#8 ++ lcdCommand 0x01#8 ++ lcdCommand 0x0F#8

/-- `setCustomGlyph(index, rows)` (R108; 90_conflicts.md C8): nothing for an index past 15. The base address and
the command byte that sets an address, which the source does not give, are arguments. DESIGN CHOICE (log 20): rule
R108 gives the address `base + index * 8` no width, so it is a natural number here and nothing wraps; which bits of
it the command byte carries is `setAddress`'s. -/
def setCustomGlyph (setAddress : Nat → Byte) (base index : Nat) (rows : Vector Byte 8) : List ClientOp :=
  if index ≤ 15 then
    lcdCommand (setAddress (base + index * 8)) ++ rows.toList.flatMap lcdChar
  else []

end Sys2Proof.Machine
end

