-- ==== Sys2Proof/Safety.lean ====
section
/-! DEFINITION. The terms claims are stated in: the invariants of the two levels, the event-level view of a
cycle-level state (R6), hosts that keep the bracket (R102), what a buffer shows (R94), runs of several bytes,
pushes and clock cycles. -/

namespace Sys2Proof.Machine

/-! ### Invariants -/

/-- What holds of the block between events at the event level (R17, R20, R21, R27, R65). -/
structure EventInv (s : State) : Prop where
  level : s.level = .event
  handoff : s.handoff = none
  /-- `rx_state` is never ERROR or unused between events (R17) -/
  rxState : s.rxState ≤ rxStop
  /-- in BITn the accumulator's bits that no data bit has reached are zero (R65) -/
  rxAcc : rxBit0 ≤ s.rxState → s.rxState ≤ rxBit7 → s.rxAcc <<< (s.rxState.toNat - 1) = 0#8
  /-- R20 -/
  edgePending : s.edgePending = false
  /-- R21: `clk_drive_low = not kbd_enabled` -/
  clkDriveLow : s.clkDriveLow = !s.kbdEnabled
  /-- R27 -/
  txBusy : s.txBusy = false
  svc : s.cyc.svc = .idle
  lkPhase : s.cyc.lkPhase = .idle

/-- What holds of the block between cycles at the cycle level (R130, R134 to R138, R141). -/
structure CycleInv (p : Config.Timing) (s : State) : Prop where
  level : s.level = .cycle
  handoff : s.handoff = none
  /-- no unused receiver state -/
  rxState : s.rxState ≤ rxError
  /-- ERROR is held exactly during the inhibit pulse (R138) -/
  rxError : s.rxState = rxError ↔ s.cyc.svc = .inhibit
  rxAcc : rxBit0 ≤ s.rxState → s.rxState ≤ rxBit7 → s.rxAcc <<< (s.rxState.toNat - 1) = 0#8
  /-- the clock line is pulled low while disabled and during the pulse, and at no other time (R21) -/
  clkDriveLow : s.clkDriveLow = (!s.kbdEnabled || s.cyc.svc == .inhibit)
  /-- a pulse and its blanking time end at a KBDOFF (R138) -/
  recovering : s.cyc.svc = .inhibit ∨ s.cyc.svc = .blank → s.kbdEnabled = true
  /-- blanking follows a completed recovery -/
  blank : s.cyc.svc = .blank → s.rxState = rxAwaitStart
  /-- `tx_busy` is 1 exactly while the sequencer runs (R27, R141) -/
  txBusy : s.txBusy = true ↔ s.cyc.lkPhase ≠ .idle
  /-- no transmission while the keyboard interface is enabled (R112, R127, R130) -/
  exclusive : s.txBusy = true → s.kbdEnabled = false
  /-- `lk_count` is 0 to 16 (R134) -/
  lkCount : s.cyc.lkCount ≤ 16#5
  /-- the low half of a bit has an edge still to come -/
  lkLow : s.cyc.lkPhase = .shift → s.cyc.srClk = false → s.cyc.lkCount < 16#5
  lkDiv : s.cyc.lkDiv ≤ p.shiftDiv
  /-- the shift clock rests at 0 outside SHIFT, the latch line at 1 outside LATCH (R56, R141) -/
  srClk : s.cyc.srClk = true → s.cyc.lkPhase = .shift
  srLatch : s.cyc.srLatch = false → s.cyc.lkPhase = .latch

/-- The block right after reset, at the cycle level. -/
def State.cycleReset : State := { State.reset with level := .cycle }

/-! ### The event-level view of the cycle level (R6) -/

/-- The event-level state a cycle-level state stands for: the hidden registers are forgotten, and a pulse in
progress counts as done, since at the event level recovery is part of the edge's step (R71). DESIGN CHOICE (log 23):
the view so reads an edge's event-level step at its sample, also for a rejected edge, whose step rule R136 reads at the
cycle in which `svc` returns to IDLE. -/
def State.eventView (s : State) : State :=
  { s with level := .event, events := [], cycles := [], edgePending := false,
           clkDriveLow := !s.kbdEnabled,
           rxState := if s.rxState = rxError then rxAwaitStart else s.rxState,
           cyc := CycleRegs.reset }

/-- The cycle takes a sample: SETTLE has run out, the interface is enabled, no command ends the service. -/
def samples (i : CycleIn) (s : State) : Bool :=
  s.cyc.svc == .settle && s.cyc.svcTimer == 0 && s.kbdEnabled && !serviceEnded i s

/-- The event-level steps a cycle stands for, in order: the pin, the command, the edge (R116, R140). An edge stands in
the cycle of its sample (log 23). -/
def cycleEvents (i : CycleIn) (s : State) : List Event :=
  .pin i.busy ::
    ((if i.cmdValid then [.cmd i.cmd] else []) ++
     (if samples i s then [.edge (s.cyc.dataSync.getLsbD 1)] else []))

/-- Clock cycles with given cycle counts, in order. -/
def clockRun (p : Config.Timing) : List CycleIn → State → Res
  | [], s => .next s
  | i :: is, s => andThen (clockCycle p i s) (clockRun p is)

/-- A cycle in which the host and the reset input are idle; the lines are free. -/
def quiet (i : CycleIn) : Bool := !i.rst && !i.cmdValid

/-- The command is a legal LINKTX. -/
def isLinktx : Option Instr → Bool
  | some (.linktx _ _) => true
  | _ => false

/-- A cycle in which the reset input is idle and the host at most polls: a command presented is neither LINKTX nor
KBDOFF nor KBDON. -/
def polling (i : CycleIn) : Bool := !i.rst && !isLinktx (cycleCmd i) && !endsService (cycleCmd i)

/-- The command of a stimulus, decoded. -/
def eventCmd : Event → Option Instr
  | .cmd w => some (decodeCmd w)
  | .edge _ => none
  | .pin _ => none
  | .reset => none

/-- The stimulus is an edge. -/
def Event.isEdge : Event → Bool
  | .edge _ => true
  | .cmd _ => false
  | .pin _ => false
  | .reset => false

/-- The command is a legal KBDOFF. -/
def isKbdoff : Option Instr → Bool
  | some (.kbdoff _ _) => true
  | _ => false

/-- The command is a legal RXREAD. -/
def isRxread : Option Instr → Bool
  | some (.rxread _ _) => true
  | _ => false

/-! ### Hosts that keep the bracket (R102, R127) -/

/-- Every LINKTX of the list comes while the interface is disabled, given whether it is enabled now. -/
def bracketed : Bool → List Event → Bool
  | _, [] => true
  | en, .edge _ :: es => bracketed en es
  | en, .pin _ :: es => bracketed en es
  | _, .reset :: es => bracketed true es
  | en, .cmd w :: es =>
    match decodeCmd w with
    | .linktx _ _ => !en && bracketed en es
    | .kbdoff _ _ => bracketed false es
    | .kbdon _ _ => bracketed true es
    | _ => bracketed en es

/-! ### What a push does (R90) -/

/-- `buf` and `wr` are those of `s` after `v` is pushed: the entry at the write cursor is `v`, every other
entry is unchanged, the cursor is one further mod CAP. -/
def pushedOnto (s : State) (v : Byte) (buf : Vector Byte Config.cap) (wr : Cursor) : Prop :=
  buf[s.wr.toNat]? = some v ∧ (∀ j, j ≠ s.wr.toNat → buf[j]? = s.buf[j]?) ∧
  wr.toNat = (s.wr.toNat + 1) % Config.cap

/-! ### What the buffer shows (R94) -/

/-- Two states alike but for buffer entries no RXREAD can return: those outside `rd .. wr - 1`. -/
def sameUnread (s t : State) : Prop :=
  t = { s with buf := t.buf } ∧
  ∀ k : Cursor, k < occupancy s.wr s.rd → bufRead s.buf (s.rd + k) = bufRead t.buf (s.rd + k)

/-- Two outcomes alike under a relation of states. -/
def Res.rel (R : State → State → Prop) : Res → Res → Prop
  | .next s, .next t => R s t
  | .fault f, .fault g => f = g
  | .refused f, .refused g => f = g
  | _, _ => False

/-! ### Runs -/

/-- The translator's steps for a sequence of decoded bytes (R75). -/
def translateBytes : List Byte → State → Res
  | [], s => .next s
  | b :: bs, s => andThen (runTranslator { s with handoff := some b }) (translateBytes bs)

/-- Pushes in order (R90). -/
def pushAll : List Byte → State → State
  | [], s => s
  | v :: vs, s => pushAll vs (push v s)

/-- The responses to RXREADs that return the given values (R91). -/
def readResponses (vs : List Byte) : List Obs := vs.map fun v => .response (mkRsp true false v)

/-- The non-extended and the extended modifier codes with the bits of `mods` they name (R23, R78, R79). -/
def modifierCodes : List (Byte × Nat) := [(0x12#8, 0), (0x59#8, 1), (0x14#8, 2), (0x11#8, 4)]
def extModifierCodes : List (Byte × Nat) := [(0x14#8, 3), (0x11#8, 5), (0x1F#8, 6), (0x27#8, 7)]

end Sys2Proof.Machine
end

