-- ==== Sys2Proof/Certificates/Slice0/Obligations.lean ====
section
/-! DEFINITION. The statements for the provers. -/

open Sys2Proof Sys2Proof.Machine

/-! ### Reset -/

/-- R16, R123: the reset values the spec gives, and the output levels after reset. (The buffer entries and the
busy pin have values of the model's choice, logs 5 and 6, and are left out.) -/
def Obligations.ResetLeavesSpecValues : Prop :=
  State.reset.rxState = 0#4 ∧ State.reset.rxAcc = 0x00#8 ∧ State.reset.kbdEnabled = true ∧
  State.reset.edgePending = false ∧ State.reset.clkDriveLow = false ∧ State.reset.kstate = 0#2 ∧
  State.reset.mods = 0x00#8 ∧ State.reset.wr = 0#3 ∧ State.reset.rd = 0#3 ∧
  State.reset.linkSr = 0x0000#16 ∧ State.reset.txBusy = false ∧
  State.reset.ports = ⟨false, false, false, true, 0x00#8, 0x00#8, false, 0x000#10⟩ ∧
  State.reset.cyc.clkSync = 0b11#2 ∧ State.reset.cyc.dataSync = 0b11#2 ∧ State.reset.cyc.clkPrev = true ∧
  State.reset.cyc.svc = .idle ∧ State.reset.cyc.svcTimer = 0 ∧ State.reset.cyc.lkPhase = .idle ∧
  State.reset.cyc.lkCount = 0#5 ∧ State.reset.cyc.lkDiv = 0

/-- R123, R124: the reset input, at any moment and at both levels, leaves every register of the block at its
value in `State.reset`. The model's choice: that reset is a stimulus of the event level, which R6 does not list, and
that the inputs still to come and what was already shown stay (log 4); that the busy pin stays at the environment's
level (logs 4 and 6); that a later reset puts the buffer entries at the values of `State.reset` too (log 5). -/
def Obligations.ResetInputRestoresRegisters : Prop :=
  (∀ s es, s.level = .event → s.handoff = none → s.events = .reset :: es →
    step s = .next { State.reset with
      busyPin := s.busyPin, level := .event, events := es, cycles := s.cycles, trace := s.trace }) ∧
  (∀ s i is, s.level = .cycle → s.cycles = i :: is → i.rst = true →
    step s = .next { State.reset with
      busyPin := i.busy, level := .cycle, events := s.events, cycles := is, trace := s.trace })

/-! ### A step runs the decoded instruction -/

/-- R6, R52: a command stimulus is decoded and executed, with nothing around it. -/
def Obligations.StepRunsDecodedCommand : Prop :=
  ∀ s w es, s.level = .event → s.handoff = none → s.events = .cmd w :: es →
    step s = exec (decodeCmd w) { s with events := es }

/-- R44, R61, R63: an accepted edge is joined with the receiver state, decoded and executed; the translator's
instruction for a byte handed over and the final test with recovery follow in the same step. -/
def Obligations.StepRunsDecodedEdge : Prop :=
  ∀ s d es, s.level = .event → s.handoff = none → s.kbdEnabled = true → s.events = .edge d :: es →
    step s =
      andThen (exec (decodeRx (rxev s.rxState d)) { s with events := es }) fun t =>
        andThen (match t.handoff with
          | none => .next t
          | some b => exec (decodeTr (trev t.kstate b)) { t with handoff := none }) fun u =>
          .next (if u.rxState = 11#4 then recovery u else u)

/-- R46: a byte handed to the translator is joined with the key-event state, decoded and executed. That it happens in
a step of its own is the model's choice (log 2), for a byte placed there (log 13): R75 runs the translator only inside
the edge's step, which StepRunsDecodedEdge states. -/
def Obligations.StepRunsDecodedTranslatorByte : Prop :=
  ∀ s b, s.level = .event → s.handoff = some b →
    step s = exec (decodeTr (trev s.kstate b)) { s with handoff := none }

/-- The model's interface (log 13), over rows of 24, 8 and 16 bits (log 12): a word placed by `withFetchWord` is what
the next step runs: a command word; a receiver event word, with rule R63's surroundings; a translator event word. -/
def Obligations.PlacedWordRunsNext : Prop :=
  (∀ (s : State) (w : CmdWord), step (s.withFetchWord 24 w.toNat) =
    exec (decodeCmd w) { s with level := .event, handoff := none }) ∧
  (∀ (s : State) (w : RxWord), step (s.withFetchWord 8 w.toNat) =
    andThen (exec (decodeRx w)
      { s with level := .event, handoff := none, kbdEnabled := true, rxState := w.extractLsb' 1 4 }) fun t =>
      andThen (runTranslator t) fun u => .next (recoverIfError u)) ∧
  (∀ (s : State) (w : TrWord), step (s.withFetchWord 16 w.toNat) =
    exec (decodeTr w) { s with level := .event, kstate := w.extractLsb' 8 2, handoff := none })

/-- The cycle level's counterpart of the step statements: with `rst = 0` a step is one clock cycle (R134 to R141) on
the head of the cycles to come, with this hardware's cycle counts, and a command presented in it, other than LINKTX and
a KBDON during a transmission, is decoded and executed on the state before the cycle: the cycle gives its response, which
is valid in the next cycle, and its effect on `kbd_enabled` and `rd` (R139). The input list is the model's (log 1). -/
def Obligations.StepRunsClockCycle : Prop :=
  ∀ s i is, s.level = .cycle → s.cycles = i :: is → i.rst = false →
    step s = clockCycle Config.timing i { s with cycles := is } ∧
    (s.handoff = none → i.cmdValid = true → isLinktx (cycleCmd i) = false →
      (isKbdon (cycleCmd i) && s.txBusy) = false →
      ∃ u t, exec (decodeCmd i.cmd) { s with cycles := is, busyPin := i.busy } = .next u ∧ step s = .next t ∧
        t.rsp = u.rsp ∧ t.cyc.rspValid = true ∧ t.kbdEnabled = u.kbdEnabled ∧ t.rd = u.rd ∧
        t.busyPin = i.busy ∧ t.level = .cycle ∧ t.cycles = is)

/-! ### Decoding and encoding -/

/-- R44, R46, R49, R51: words written out from the spec's tables decode to what they stand for. -/
def Obligations.SpecWordsDecode : Prop :=
  decodeCmd 0x000000#24 = .nop 0x00#8 0x00#8 ∧ decodeCmd 0x00ABCD#24 = .nop 0xAB#8 0xCD#8 ∧
  decodeCmd 0x100000#24 = .rxread 0x00#8 0x00#8 ∧ decodeCmd 0x200000#24 = .rxcount 0x00#8 0x00#8 ∧
  decodeCmd 0x300000#24 = .kbdoff 0x00#8 0x00#8 ∧ decodeCmd 0x400000#24 = .kbdon 0x00#8 0x00#8 ∧
  decodeCmd 0x504105#24 = .linktx 0x41#8 0x05#8 ∧ decodeCmd 0x600000#24 = .linkbusy 0x00#8 0x00#8 ∧
  decodeCmd 0x7000FF#24 = .status 0x00#8 0xFF#8 ∧
  decodeCmd 0x800000#24 = .reservedOp 0#3 0#4 0x00#8 0x00#8 ∧
  decodeCmd 0x510000#24 = .reservedRsv 5#3 1#4 0x00#8 0x00#8 ∧
  decodeRx 0b00000#5 = .rxStart false ∧ decodeRx 0b01001#5 = .rxBit3 true ∧
  decodeRx 0b10010#5 = .rxParity false ∧ decodeRx 0b10101#5 = .rxStop true ∧
  decodeRx 0b11011#5 = .rxUnused 1#2 true ∧
  decodeTr 0x0F0#10 = .trNormalF0 ∧ decodeTr 0x0E0#10 = .trNormalE0 ∧
  decodeTr 0x01C#10 = .trNormalOther 0x1C#8 ∧ decodeTr 0x1F0#10 = .trBreak 0xF0#8 ∧
  decodeTr 0x2F0#10 = .trExtF0 ∧ decodeTr 0x2E0#10 = .trExtOther 0xE0#8 ∧
  decodeTr 0x314#10 = .trExtbreak 0x14#8

/-- Decode and encode agree: every well-formed instruction, with every operand at every value, is read back
from its word. -/
def Obligations.DecodeOfEncode : Prop :=
  ∀ i : Instr, i.wf = true → decodeWord (encode i) = i

/-- R44, R46, R52: decoding is total and unambiguous: every word of every format decodes to a well-formed
instruction, whose only word it is. -/
def Obligations.EncodeOfDecode : Prop :=
  ∀ w : EventWord, (decodeWord w).wf = true ∧ encode (decodeWord w) = w

/-- The decoder over bytes reads an encoded instruction back and leaves the bytes after it (log 12). -/
def Obligations.BytesReadBack : Prop :=
  ∀ (i : Instr) (rest : List Byte), i.wf = true →
    decodeBytes (encode i).format (encodeBytes i ++ rest) = .ok (i, rest)

/-- The decoder agrees with the masks and values of spec/opcode_table.json: the first row a word matches, in the
table's order of priority, is its instruction's. -/
def Obligations.DecoderFollowsOpcodeTable : Prop :=
  ∀ w : EventWord, firstRow (opRows w.format) w.toNat = some (decodeWord w).mnemonic

/-- A number with a bit above its format's width is no instruction (log 12): RX_EVENT has 5 bits (R44),
TR_EVENT 10 (R46). -/
def Obligations.StrayBitsRejected : Prop :=
  (∀ w, 32 ≤ w → w < 256 → decodeTableWord 8 w = none) ∧
  (∀ w, 1024 ≤ w → w < 65536 → decodeTableWord 16 w = none)

/-! ### Host commands: result, frame and completion -/

/-- R100. -/
def Obligations.NopOnlyResponds : Prop :=
  ∀ a b s, decodeCmd (cmdWord 0x0#4 0#4 a b) = .nop a b ∧
    exec (.nop a b) s = .next { s with rsp := 0x100#10, trace := .response 0x100#10 :: s.trace }

/-- R91: an empty buffer answers OK = 0, DATA = 0x00 and changes nothing else; otherwise OK = 1, DATA is the entry
at `rd`, and only `rd` advances, mod CAP. -/
def Obligations.RxreadReturnsOldestEntry : Prop :=
  ∀ a b s, decodeCmd (cmdWord 0x1#4 0#4 a b) = .rxread a b ∧
    (s.wr = s.rd → exec (.rxread a b) s =
      .next { s with rsp := 0x000#10, trace := .response 0x000#10 :: s.trace }) ∧
    (s.wr ≠ s.rd → ∃ r rd', exec (.rxread a b) s =
        .next { s with rd := rd', rsp := r, trace := .response r :: s.trace } ∧
      rspErr r = false ∧ rspOk r = true ∧ s.buf[s.rd.toNat]? = some (rspData r) ∧
      rd'.toNat = (s.rd.toNat + 1) % Config.cap)

/-- R92, R89: DATA is the cursor difference modulo CAP; nothing else changes. -/
def Obligations.RxcountReturnsOccupancy : Prop :=
  ∀ a b s, decodeCmd (cmdWord 0x2#4 0#4 a b) = .rxcount a b ∧
    ∃ r, exec (.rxcount a b) s = .next { s with rsp := r, trace := .response r :: s.trace } ∧
      rspErr r = false ∧ rspOk r = true ∧
      ((rspData r).toNat : Int) = ((s.wr.toNat : Int) - s.rd.toNat) % Config.cap

/-- R97. -/
def Obligations.KbdoffDisables : Prop :=
  ∀ a b s, decodeCmd (cmdWord 0x3#4 0#4 a b) = .kbdoff a b ∧
    exec (.kbdoff a b) s = .next { s with
      kbdEnabled := false, clkDriveLow := true, rsp := 0x100#10, trace := .response 0x100#10 :: s.trace }

/-- R98 with `KBDON_REINIT = FULL`, which the spec states for this hardware (log 9). -/
def Obligations.KbdonReinitialises : Prop :=
  ∀ a b s, decodeCmd (cmdWord 0x4#4 0#4 a b) = .kbdon a b ∧
    exec (.kbdon a b) s = .next { s with
      rxState := 0#4, rxAcc := 0x00#8, kstate := 0#2, mods := 0x00#8, wr := 0#3, rd := 0#3,
      edgePending := false, clkDriveLow := false, kbdEnabled := true,
      rsp := 0x100#10, trace := .response 0x100#10 :: s.trace }

/-- R47, R55, R56, R59: with the interface disabled and no transmission in progress, LINKTX sends the sixteen
bits, address first and most significant first, commits both bytes in one latch, and changes nothing else. -/
def Obligations.LinktxShiftsAndLatches : Prop :=
  ∀ a f s, decodeCmd (cmdWord 0x5#4 0#4 a f) = .linktx a f ∧
    (s.kbdEnabled = false → s.txBusy = false → exec (.linktx a f) s = .next { s with
      linkSr := BitVec.ofNat 16 (256 * a.toNat + f.toNat), outAddr := a, outFlags := f, rsp := 0x100#10,
      trace := .response 0x100#10 :: .latch a f ::
        (((List.range 8).map fun k => Obs.shiftEdge (a.getLsbD (7 - k))) ++
         ((List.range 8).map fun k => Obs.shiftEdge (f.getLsbD (7 - k)))).reverse ++ s.trace })

/-- R59, R112: LINKTX with the interface enabled on shared pins is the fault LinkWhileKeyboardEnabled; while a
transmission is in progress it is answered OK = 0 with no state change. -/
def Obligations.LinktxFaultOrRefusal : Prop :=
  ∀ a f s,
    (s.kbdEnabled = true → exec (.linktx a f) s = .fault .linkWhileKeyboardEnabled) ∧
    (s.kbdEnabled = false → s.txBusy = true → exec (.linktx a f) s =
      .next { s with rsp := 0x000#10, trace := .response 0x000#10 :: s.trace })

/-- R60. -/
def Obligations.LinkbusyReturnsPin : Prop :=
  ∀ a b s, decodeCmd (cmdWord 0x6#4 0#4 a b) = .linkbusy a b ∧
    (s.busyPin = true → exec (.linkbusy a b) s =
      .next { s with rsp := 0x101#10, trace := .response 0x101#10 :: s.trace }) ∧
    (s.busyPin = false → exec (.linkbusy a b) s =
      .next { s with rsp := 0x100#10, trace := .response 0x100#10 :: s.trace })

/-- R99: `DATA[0] = tx_busy`, `DATA[1] = kbd_enabled`, `DATA[7:2] = 0`. -/
def Obligations.StatusReportsFlags : Prop :=
  ∀ a b s, decodeCmd (cmdWord 0x7#4 0#4 a b) = .status a b ∧
    ∃ r, exec (.status a b) s = .next { s with rsp := r, trace := .response r :: s.trace } ∧
      rspErr r = false ∧ rspOk r = true ∧ (rspData r).getLsbD 0 = s.txBusy ∧
      (rspData r).getLsbD 1 = s.kbdEnabled ∧ ∀ k, 2 ≤ k → (rspData r).getLsbD k = false

/-- R51, R101: every word with `cmd[23] = 1` or `cmd[19:16] != 0` is answered ERR = 1, OK = 0, DATA = 0x00 and
changes nothing else; so do both illegal instructions, whatever their fields. -/
def Obligations.IllegalWordsAnswerErr : Prop :=
  (∀ (w : CmdWord) (s : State), w.getLsbD 23 = true ∨ w.extractLsb' 16 4 ≠ 0#4 →
    exec (decodeCmd w) s = .next { s with rsp := 0x200#10, trace := .response 0x200#10 :: s.trace }) ∧
  (∀ op rsv a b s, exec (.reservedOp op rsv a b) s =
    .next { s with rsp := 0x200#10, trace := .response 0x200#10 :: s.trace }) ∧
  (∀ op rsv a b s, exec (.reservedRsv op rsv a b) s =
    .next { s with rsp := 0x200#10, trace := .response 0x200#10 :: s.trace })

/-- R51: every legal command but LINKTX behaves the same for all values of A and B. -/
def Obligations.UnusedOperandsIgnored : Prop :=
  ∀ (op : BitVec 4) (a b a' b' : Byte) (s : State), op < 8#4 → op ≠ 5#4 →
    exec (decodeCmd (cmdWord op 0#4 a b)) s = exec (decodeCmd (cmdWord op 0#4 a' b')) s

/-- R50, R112: a command word gives exactly one response, in which ERR and OK are never both 1, or it is LINKTX
and the fault; ERR is 1 exactly for an illegal word (R51). -/
def Obligations.EveryCommandRespondsOnce : Prop :=
  ∀ (w : CmdWord) (s : State),
    (∃ t shown, exec (decodeCmd w) s = .next t ∧ t.trace = .response t.rsp :: shown ++ s.trace ∧
      (∀ r, Obs.response r ∉ shown) ∧ (rspErr t.rsp && rspOk t.rsp) = false ∧
      (rspErr t.rsp = true ↔ w.getLsbD 23 = true ∨ w.extractLsb' 16 4 ≠ 0#4)) ∨
    ((∃ a f, decodeCmd w = .linktx a f) ∧ s.kbdEnabled = true ∧
      exec (decodeCmd w) s = .fault .linkWhileKeyboardEnabled)

/-! ### The receiver -/

/-- R64, R110: a start bit of 0 clears the accumulator and moves to BIT0; a start bit of 1 is the framing error
START and moves to ERROR. Nothing else changes. -/
def Obligations.StartBitRule : Prop :=
  ∀ s, exec (.rxStart false) s = .next { s with rxAcc := 0x00#8, rxState := 1#4 } ∧
    exec (.rxStart true) s = .next { s with rxState := 11#4, trace := .framingError .start :: s.trace }

/-- R65, R66: in BITn the sampled bit becomes bit 7 of the accumulator, the other bits move one place down, the
receiver advances to BIT(n+1), after BIT7 to PARITY; nothing else changes. -/
def Obligations.DataBitsShiftIn : Prop :=
  ∀ p ∈ ([(.rxBit0, 2#4), (.rxBit1, 3#4), (.rxBit2, 4#4), (.rxBit3, 5#4), (.rxBit4, 6#4), (.rxBit5, 7#4),
      (.rxBit6, 8#4), (.rxBit7, 9#4)] : List ((Bool → Instr) × BitVec 4)),
    ∀ (d : Bool) (s : State), ∃ acc : Byte, exec (p.1 d) s = .next { s with rxAcc := acc, rxState := p.2 } ∧
      acc.getLsbD 7 = d ∧ ∀ k, k < 7 → acc.getLsbD k = s.rxAcc.getLsbD (k + 1)

/-- R67, R110: the check passes exactly when the one bits of the accumulator and the parity bit together are odd
in number; otherwise it is the framing error PARITY. The accumulator is not changed. -/
def Obligations.ParityRule : Prop :=
  ∀ (d : Bool) (s : State),
    ((popcount s.rxAcc + d.toNat) % 2 = 1 → exec (.rxParity d) s = .next { s with rxState := 10#4 }) ∧
    ((popcount s.rxAcc + d.toNat) % 2 = 0 → exec (.rxParity d) s =
      .next { s with rxState := 11#4, trace := .framingError .parity :: s.trace })

/-- R68, R110: a stop bit of 1 hands the accumulated byte to the translator and returns to AWAIT_START; a stop
bit of 0 is the framing error STOP and hands nothing over. Nothing else changes. -/
def Obligations.StopBitRule : Prop :=
  ∀ s, exec (.rxStop true) s = .next { s with rxState := 0#4, handoff := some s.rxAcc } ∧
    exec (.rxStop false) s = .next { s with rxState := 11#4, trace := .framingError .stop :: s.trace }

/-- R69, R70, R110: in ERROR the state rule changes no register, in an unused state it moves to ERROR; both are
the framing error STATE, whatever the bit. -/
def Obligations.ErrorStateRules : Prop :=
  ∀ (d : Bool) (low : BitVec 2) (s : State),
    exec (.rxError d) s = .next { s with trace := .framingError .state :: s.trace } ∧
    exec (.rxUnused low d) s = .next { s with rxState := 11#4, trace := .framingError .state :: s.trace }

/-- R63, R71, R110: an accepted edge that breaks the frame is recovered within its own step: one inhibit
pulse, AWAIT_START, the clock line released; the accumulator, the translator, the buffer and every other
register are unchanged, and the host is told nothing. -/
def Obligations.FramingErrorRecoversInOneStep : Prop :=
  ∀ (s : State) (d : Bool) (es : List Event) (c : FramingCause),
    s.level = .event → s.handoff = none → s.kbdEnabled = true → s.events = .edge d :: es →
    ((c = .start ∧ s.rxState = 0#4 ∧ d = true) ∨
     (c = .parity ∧ s.rxState = 9#4 ∧ (popcount s.rxAcc + d.toNat) % 2 = 0) ∨
     (c = .stop ∧ s.rxState = 10#4 ∧ d = false) ∨
     (c = .state ∧ 11#4 ≤ s.rxState)) →
    step s = .next { s with
      rxState := 0#4, clkDriveLow := false, events := es,
      trace := .inhibitPulse :: .framingError c :: s.trace }

/-- R39, R61: while the keyboard interface is disabled any number of edges changes no state. -/
def Obligations.EdgesWhileDisabledDoNothing : Prop :=
  ∀ (ds : List Bool) (es : List Event) (s : State),
    s.level = .event → s.handoff = none → s.kbdEnabled = false → s.events = ds.map .edge ++ es →
    core.run ds.length s = .next { s with events := es }

/-- R72: the eleven edges of a valid frame hand exactly its byte to the translator, once, at the eleventh edge,
make no inhibit pulse, and leave AWAIT_START with the byte in the accumulator. -/
def Obligations.ValidFrameDeliversItsByte : Prop :=
  ∀ (b : Byte) (es : List Event) (s : State),
    s.level = .event → s.handoff = none → s.kbdEnabled = true → s.rxState = 0#4 →
    s.events = frame b ++ es →
    core.run 10 s = .next { s with rxState := 10#4, rxAcc := b, events := .edge true :: es } ∧
    ∃ t, core.run 11 s = .next t ∧ runTranslator { s with rxAcc := b, handoff := some b, events := es } = .next t ∧
      t.rxState = 0#4 ∧ t.rxAcc = b ∧ t.handoff = none ∧ t.trace = s.trace ∧ t.clkDriveLow = s.clkDriveLow

/-- R73: a frame with a start bit of 1 is rejected at its first edge, one with inverted parity at its tenth, one
with a stop bit of 0 at its eleventh: one inhibit pulse, AWAIT_START, no byte for the translator. An edge
with data 1 after a parity error is a start error of its own. -/
def Obligations.MalformedFrameIsRejected : Prop :=
  ∀ (b : Byte) (p e : Bool) (es : List Event) (s : State),
    s.level = .event → s.handoff = none → s.kbdEnabled = true → s.rxState = 0#4 →
    (∀ rest, s.events = .edge true :: rest →
      core.run 1 s = .next { s with
        clkDriveLow := false, events := rest, trace := .inhibitPulse :: .framingError .start :: s.trace }) ∧
    (p ≠ goodParity b → s.events = frameX b false p e ++ es →
      core.run 10 s = .next { s with
        rxAcc := b, clkDriveLow := false, events := .edge e :: es,
        trace := .inhibitPulse :: .framingError .parity :: s.trace }) ∧
    (s.events = badParity b ++ es →
      core.run 11 s = .next { s with
        rxAcc := b, clkDriveLow := false, events := es,
        trace := .inhibitPulse :: .framingError .start :: .inhibitPulse :: .framingError .parity :: s.trace }) ∧
    (s.events = frameX b false (goodParity b) false ++ es →
      core.run 11 s = .next { s with
        rxAcc := b, clkDriveLow := false, events := es,
        trace := .inhibitPulse :: .framingError .stop :: s.trace })

/-! ### The translator -/

/-- R80, R81, R84: the prefix bytes change the key-event state and nothing else. -/
def Obligations.PrefixBytesSetKeyState : Prop :=
  ∀ s, (decodeTr 0x0F0#10 = .trNormalF0 ∧ exec .trNormalF0 s = .next { s with kstate := 1#2 }) ∧
    (decodeTr 0x0E0#10 = .trNormalE0 ∧ exec .trNormalE0 s = .next { s with kstate := 2#2 }) ∧
    (decodeTr 0x2F0#10 = .trExtF0 ∧ exec .trExtF0 s = .next { s with kstate := 3#2 })

/-- R82: a character is pushed and nothing else happens; without one, a modifier code sets its bit and no other,
Escape pushes 0x00, and any other byte changes nothing. -/
def Obligations.NormalByteRule : Prop :=
  ∀ (b : Byte) (s : State),
    (∀ v, lookup s.mods b = some v → ∃ buf' wr',
      exec (.trNormalOther b) s = .next { s with buf := buf', wr := wr' } ∧ pushedOnto s v buf' wr') ∧
    (lookup s.mods b = none → b ≠ 0x76#8 → ∃ mods', exec (.trNormalOther b) s = .next { s with mods := mods' } ∧
      ∀ k, k < 8 → mods'.getLsbD k = (s.mods.getLsbD k || modifierCodes.contains (b, k))) ∧
    (b = 0x76#8 → ∃ buf' wr',
      exec (.trNormalOther b) s = .next { s with buf := buf', wr := wr' } ∧ pushedOnto s 0x00#8 buf' wr')

/-- R76, R77, R87: codes from 96 on give nothing, below 96 the chosen table's entry is returned unless it is null, a
null entry gives nothing, 0x1C gives 'a' or with a shift bit
'A', the modifier codes give nothing, and no modifier bit but the two shifts matters. It holds for all values of the
table entries the spec leaves open (log 7). -/
def Obligations.LookupFollowsTables : Prop :=
  (∀ mods b : Byte, 96 ≤ b.toNat → lookup mods b = none) ∧
  (∀ mods b : Byte, lookup mods b ≠ some 0x00#8) ∧
  (∀ mods : Byte, lookup mods 0x1C#8 =
    some (if mods.getLsbD 0 = true ∨ mods.getLsbD 1 = true then 0x41#8 else 0x61#8)) ∧
  (∀ (mods b : Byte), b ∈ [0x11#8, 0x12#8, 0x14#8, 0x59#8] → lookup mods b = none) ∧
  (∀ mods mods' b : Byte, (mods.getLsbD 0 || mods.getLsbD 1) = (mods'.getLsbD 0 || mods'.getLsbD 1) →
    lookup mods b = lookup mods' b) ∧
  (∀ (mods b v : Byte), lookup mods b = some v → ∃ h : b.toNat < 96,
    v = tableRead (if mods.getLsbD 0 || mods.getLsbD 1 then .shifted else .unshifted) ⟨b.toNat, h⟩) ∧
  (∀ (mods b : Byte) (h : b.toNat < 96),
    let v := tableRead (if mods.getLsbD 0 || mods.getLsbD 1 then .shifted else .unshifted) ⟨b.toNat, h⟩
    (v ≠ 0x00#8 → lookup mods b = some v) ∧ (v = 0x00#8 → lookup mods b = none))

/-- R83: a break code clears the bit of a non-extended modifier code and no other, returns to NORMAL and pushes
nothing. -/
def Obligations.BreakClearsModifier : Prop :=
  ∀ (b : Byte) (s : State), decodeTr (trev 1#2 b) = .trBreak b ∧
    ∃ mods', exec (.trBreak b) s = .next { s with mods := mods', kstate := 0#2 } ∧
      ∀ k, k < 8 → mods'.getLsbD k = (s.mods.getLsbD k && !modifierCodes.contains (b, k))

/-- R85, R86: an extended code sets, an extended break code clears, the bit of an extended modifier and no other;
both return to NORMAL and push nothing. The codes of right alt and the two GUI keys are the parameter's default,
which the spec takes from general knowledge (log 8). -/
def Obligations.ExtendedBytesRule : Prop :=
  ∀ (b : Byte) (s : State),
    (∃ mods', exec (.trExtOther b) s = .next { s with mods := mods', kstate := 0#2 } ∧
      ∀ k, k < 8 → mods'.getLsbD k = (s.mods.getLsbD k || extModifierCodes.contains (b, k))) ∧
    (∃ mods', exec (.trExtbreak b) s = .next { s with mods := mods', kstate := 0#2 } ∧
      ∀ k, k < 8 → mods'.getLsbD k = (s.mods.getLsbD k && !extModifierCodes.contains (b, k)))

/-- R75, R88: whatever byte reaches the translator in whatever state, its step completes, writes nothing but
`kstate`, `mods`, `buf` and `wr`, pushes at most one entry, and pushes only in NORMAL. -/
def Obligations.TranslatorPushesAtMostOne : Prop :=
  ∀ (b : Byte) (s : State), ∃ t, runTranslator { s with handoff := some b } = .next t ∧
    t = { s with handoff := none, kstate := t.kstate, mods := t.mods, buf := t.buf, wr := t.wr } ∧
    ((t.buf = s.buf ∧ t.wr = s.wr) ∨ (s.kstate = 0#2 ∧ ∃ v, pushedOnto s v t.buf t.wr))

/-- R45, R88: after every complete make, break, extended make or extended break sequence the key-event state is
NORMAL again; the two break sequences push nothing. -/
def Obligations.SequencesReturnToNormal : Prop :=
  ∀ (c : Byte) (s : State), s.kstate = 0#2 →
    (c ≠ 0xF0#8 → c ≠ 0xE0#8 → ∃ t, translateBytes [c] s = .next t ∧ t.kstate = 0#2) ∧
    (∃ t, translateBytes [0xF0#8, c] s = .next t ∧ t.kstate = 0#2 ∧ t.buf = s.buf ∧ t.wr = s.wr) ∧
    (c ≠ 0xF0#8 → ∃ t, translateBytes [0xE0#8, c] s = .next t ∧ t.kstate = 0#2 ∧ t.buf = s.buf ∧ t.wr = s.wr) ∧
    (∃ t, translateBytes [0xE0#8, 0xF0#8, c] s = .next t ∧ t.kstate = 0#2 ∧ t.buf = s.buf ∧ t.wr = s.wr)

/-- R88 (1) to (3), from NORMAL: left shift's make and break leave its bit clear; E0 14 sets right ctrl and
E0 F0 14 clears it, without an entry; Escape's make pushes 0x00 once, its break nothing. -/
def Obligations.SourceKeyProperties : Prop :=
  ∀ s : State, s.kstate = 0#2 → s.handoff = none →
    translateBytes [0x12#8, 0xF0#8, 0x12#8] s = .next { s with mods := s.mods &&& 0xFE#8 } ∧
    translateBytes [0xE0#8, 0x14#8] s = .next { s with mods := s.mods ||| 0x08#8 } ∧
    translateBytes [0xE0#8, 0xF0#8, 0x14#8] s = .next { s with mods := s.mods &&& 0xF7#8 } ∧
    (∃ buf' wr', translateBytes [0x76#8, 0xF0#8, 0x76#8] s = .next { s with buf := buf', wr := wr' } ∧
      pushedOnto s 0x00#8 buf' wr') ∧
    translateBytes [0xF0#8, 0x76#8] s = .next s

/-! ### The buffer -/

/-- R90: push writes the entry at the write cursor, then advances the cursor mod CAP; it makes no test for room and
changes nothing else. -/
def Obligations.PushStoresAndAdvances : Prop :=
  ∀ (v : Byte) (s : State), ∃ buf' wr', push v s = { s with buf := buf', wr := wr' } ∧ pushedOnto s v buf' wr'

/-- R95: from an empty buffer, N pushes with N at most CAP - 1 and then N RXREADs return the values pushed, in
order, each with OK = 1, and RXCOUNT is 0 afterwards; at N = CAP the count is 0, a read returns OK = 0 and leaves the
buffer empty, so every read does. -/
def Obligations.FifoOrder : Prop :=
  ∀ (vs : List Byte) (es : List Event) (s : State),
    s.level = .event → s.handoff = none → s.wr = s.rd →
    (vs.length ≤ Config.cap - 1 → ∃ t,
      core.run vs.length { pushAll vs s with events := List.replicate vs.length (.cmd wordRxread) ++ es } = .next t ∧
      t.trace = (readResponses vs).reverse ++ s.trace ∧ t.events = es ∧
      ∃ u, exec (.rxcount 0#8 0#8) t = .next u ∧ u.rsp = 0x100#10) ∧
    (vs.length = Config.cap →
      (∃ u, exec (.rxcount 0#8 0#8) (pushAll vs s) = .next u ∧ u.rsp = 0x100#10) ∧
      (∃ u, exec (.rxread 0#8 0#8) (pushAll vs s) = .next u ∧ u.rsp = 0x000#10 ∧ u.wr = u.rd))

/-- R93: pushes add to the count modulo CAP; from an empty buffer, after n pushes and no reads, the next reads
return exactly the last n mod CAP values pushed, in order, and then report empty. -/
def Obligations.OverflowKeepsLastEntries : Prop :=
  (∀ (vs : List Byte) (s : State),
    (occupancy (pushAll vs s).wr (pushAll vs s).rd).toNat =
      ((occupancy s.wr s.rd).toNat + vs.length) % Config.cap) ∧
  (∀ (old vs : List Byte) (es : List Event) (s : State),
    s.level = .event → s.handoff = none → s.wr = s.rd →
    vs.length = (old ++ vs).length % Config.cap → ∃ t,
      core.run (vs.length + 1)
        { pushAll (old ++ vs) s with events := List.replicate (vs.length + 1) (.cmd wordRxread) ++ es } = .next t ∧
      t.trace = .response 0x000#10 :: (readResponses vs).reverse ++ s.trace ∧ t.events = es)

/-- R24, R94: two blocks that differ only in buffer entries no RXREAD can return yet take the same steps, show the
same, and still differ only so: what the buffer held at reset is never observable. -/
def Obligations.UnreadEntriesNeverShow : Prop :=
  ∀ s t : State, s.level = .event → sameUnread s t → Res.rel sameUnread (step s) (step t)

/-! ### Whole-machine rules -/

/-- The reset state meets the invariant of the event level. -/
def Obligations.ResetMeetsEventInv : Prop := EventInv State.reset

/-- Every step of the event level keeps the invariant: the receiver is never in ERROR or an unused state between
events (R17), the bits of the accumulator that no data bit has reached are zero (R65), no edge is pending (R20), the
clock line is pulled low exactly while disabled (R21), no transmission is in progress (R27). -/
def Obligations.EventInvKept : Prop :=
  ∀ s t : State, EventInv s → step s = .next t → EventInv t

/-- The "written by" column of R16: a register changes at an event-level step only if the step is one of its
writers (the cycle level's edge detector and link sequencer take no step there). And R6, R57: a step on PIN(b) sets the
busy pin to `b` and changes nothing else. -/
def Obligations.RegistersChangeOnlyByWriters : Prop :=
  (∀ (s : State) (b : Bool) (es : List Event), s.level = .event → s.handoff = none → s.events = .pin b :: es →
    step s = .next { s with busyPin := b, events := es }) ∧
  ∀ (s t : State) (e : Event) (es : List Event),
    s.level = .event → s.handoff = none → s.events = e :: es → step s = .next t →
    (t.rxState ≠ s.rxState ∨ t.rxAcc ≠ s.rxAcc ∨ t.kstate ≠ s.kstate ∨ t.mods ≠ s.mods ∨ t.wr ≠ s.wr →
      e.isEdge = true ∨ isKbdon (eventCmd e) = true ∨ e = .reset) ∧
    (t.buf ≠ s.buf → e.isEdge = true ∨ e = .reset) ∧
    (t.rd ≠ s.rd → isRxread (eventCmd e) = true ∨ isKbdon (eventCmd e) = true ∨ e = .reset) ∧
    (t.kbdEnabled ≠ s.kbdEnabled → isKbdoff (eventCmd e) = true ∨ isKbdon (eventCmd e) = true ∨ e = .reset) ∧
    (t.clkDriveLow ≠ s.clkDriveLow →
      isKbdoff (eventCmd e) = true ∨ isKbdon (eventCmd e) = true ∨ e.isEdge = true ∨ e = .reset) ∧
    (t.outAddr ≠ s.outAddr ∨ t.outFlags ≠ s.outFlags ∨ t.linkSr ≠ s.linkSr →
      isLinktx (eventCmd e) = true ∨ e = .reset) ∧
    (t.edgePending ≠ s.edgePending → isKbdon (eventCmd e) = true ∨ e = .reset) ∧
    (t.txBusy ≠ s.txBusy → e = .reset) ∧
    (t.busyPin ≠ s.busyPin → ∃ b, e = .pin b ∧ t.busyPin = b)

/-- R7, R28, R117: no command's response, and nothing a command shows or drives, depends on the receiver's frame
state, the key-event state or the modifiers. -/
def Obligations.HostSeesNoInputState : Prop :=
  ∀ (w : CmdWord) (s : State) (st : BitVec 4) (acc mods : Byte) (ks : BitVec 2),
    Res.rel (fun t u => t.rsp = u.rsp ∧ t.trace = u.trace ∧ t.ports = u.ports ∧
        t.buf = u.buf ∧ t.wr = u.wr ∧ t.rd = u.rd ∧ t.kbdEnabled = u.kbdEnabled)
      (exec (decodeCmd w) s)
      (exec (decodeCmd w) { s with rxState := st, rxAcc := acc, kstate := ks, mods := mods })

/-- R102, R112, R127: a host whose every LINKTX stands between a KBDOFF and the next KBDON never brings about a
fault, whatever the keyboard and the LCD do: the run goes on for any number of steps. -/
def Obligations.BracketedHostNeverFaults : Prop :=
  ∀ (n : Nat) (s : State), s.level = .event → s.handoff = none → bracketed s.kbdEnabled s.events = true →
    ∃ t, core.run n s = .next t

/-! ### The cycle-level realisation -/

/-- The reset state at the cycle level meets its invariant. -/
def Obligations.ResetMeetsCycleInv : Prop := ∀ p : Config.Timing, CycleInv p State.cycleReset

/-- Every clock cycle keeps the invariant of the cycle level (R21, R130, R134 to R138, R141), whatever the cycle
counts within their bounds. -/
def Obligations.CycleInvKept : Prop :=
  (∀ (p : Config.Timing) (i : CycleIn) (s t : State), p.ok → CycleInv p s → clockCycle p i s = .next t →
    CycleInv p t) ∧
  (∀ s t : State, CycleInv Config.timing s → step s = .next t → CycleInv Config.timing t)

/-- R6, R116, R133, R139, R140: a clock cycle without reset and LINKTX is, in the event-level view, exactly the
pin's level, then the command, then the edge sampled in it: the cycle level refines the event level. During a
transmission (a KBDON is the fault there) the link sequencer adds its own part and nothing else does; `tx_busy` stands
in the event-level state of that run, so that STATUS reports it (R130). An edge is read at its sample, also a rejected
one, whose step R136 reads when `svc` is IDLE again: the model's choice (log 23). -/
def Obligations.CycleRefinesEvents : Prop :=
  (∀ (p : Config.Timing) (i : CycleIn) (s : State),
    CycleInv p s → i.rst = false → s.txBusy = false → isLinktx (cycleCmd i) = false →
    ∃ t, clockCycle p i s = .next t ∧
      core.run (cycleEvents i s).length { s.eventView with events := cycleEvents i s } = .next t.eventView) ∧
  (∀ (p : Config.Timing) (i : CycleIn) (s : State),
    CycleInv p s → i.rst = false → s.txBusy = true → isLinktx (cycleCmd i) = false → isKbdon (cycleCmd i) = false →
    ∃ t v, clockCycle p i s = .next t ∧
      core.run (cycleEvents i s).length { s.eventView with events := cycleEvents i s } = .next v ∧
      t.eventView = (linkCycle p s.cyc.lkPhase { v with cyc := s.cyc }).eventView)

/-- R141: a LINKTX accepted by the cycle level is in progress in each of the next 34 * SHIFT_DIV cycles, in which the
outputs keep their values, and commits in cycle 34 * SHIFT_DIV + 1; the sixteen shift edges carry the frame of R47. The
count is the one R141 states; its literal sequence adds up to less, and following the count is the model's choice
(log 17). -/
def Obligations.LinkTransmissionCompletes : Prop :=
  ∀ (p : Config.Timing) (i : CycleIn) (is : List CycleIn) (a f : Byte) (s : State),
    p.ok → CycleInv p s → s.kbdEnabled = false → s.txBusy = false →
    i.rst = false → cycleCmd i = some (.linktx a f) → (∀ j ∈ is, quiet j = true) →
    (is.length ≤ 34 * p.shiftDiv → ∃ t, clockRun p (i :: is) s = .next t ∧
      t.txBusy = true ∧ t.outAddr = s.outAddr ∧ t.outFlags = s.outFlags) ∧
    (is.length = 34 * p.shiftDiv + 1 → ∃ t, clockRun p (i :: is) s = .next t ∧
      t.txBusy = false ∧ t.outAddr = a ∧ t.outFlags = f ∧
      t.linkSr = BitVec.ofNat 16 (256 * a.toNat + f.toNat) ∧ t.kbdEnabled = false ∧
      t.trace = .latch a f :: ((linkBits a f).map Obs.shiftEdge).reverse ++ .response 0x100#10 :: s.trace)

/-- R136, R138: an edge service runs through its phases and ends, with the host quiet. A pending edge is sampled
SETTLE_CYCLES + 2 cycles on, one in which it is taken and SETTLE_CYCLES + 1 of settling, and has the effect of the
event-level edge with the sampled bit, the data line's level two cycles before; that count from the latching cycle is
the model's reading of R136 (log 19). After the sample the service is idle, or, where the receiver is in ERROR, in the
pulse; the event-level view shows a rejected edge as done at its sample already, where R136 reads its step when `svc` is
IDLE again: the model's choice (log 23). A sample while the interface is disabled only ends the service (log 16). A
sample that breaks the frame begins the pulse. The pulse lasts one cycle more
than its timer, then the line is released in AWAIT_START and blanking lasts BLANK_CYCLES + 1 cycles more, after which the
service is idle; no edge is latched meanwhile. -/
def Obligations.EdgeServiceCompletes : Prop :=
  (∀ (p : Config.Timing) (is : List CycleIn) (s : State),
    CycleInv p s → s.kbdEnabled = true → s.cyc.svc = .idle → s.edgePending = true →
    (∀ j ∈ is, quiet j = true ∧ j.busy = s.busyPin) → is.length = p.settleCycles + 2 →
    ∃ d t, clockRun p is s = .next t ∧ edgeStep d s.eventView = .next t.eventView ∧
      t.cyc.svc = (if t.rxState = 11#4 then .inhibit else .idle) ∧
      (p.settleCycles = 0 → d = s.cyc.dataSync.getLsbD 0) ∧
      ∀ j, is[p.settleCycles - 1]? = some j → 0 < p.settleCycles → d = j.ps2Data) ∧
  (∀ (p : Config.Timing) (i : CycleIn) (s : State) (d : Bool) (c : FramingCause),
    CycleInv p s → s.kbdEnabled = true → s.cyc.svc = .settle → s.cyc.svcTimer = 0 → quiet i = true →
    s.cyc.dataSync.getLsbD 1 = d →
    ((c = .start ∧ s.rxState = 0#4 ∧ d = true) ∨
     (c = .parity ∧ s.rxState = 9#4 ∧ (popcount s.rxAcc + d.toNat) % 2 = 0) ∨
     (c = .stop ∧ s.rxState = 10#4 ∧ d = false)) →
    ∃ t, clockCycle p i s = .next t ∧ t.cyc.svc = .inhibit ∧ t.cyc.svcTimer = p.inhibitCycles ∧
      t.rxState = 11#4 ∧ t.clkDriveLow = true ∧ t.trace = .inhibitPulse :: .framingError c :: s.trace ∧
      t.rxAcc = s.rxAcc ∧ t.kstate = s.kstate ∧ t.mods = s.mods ∧ t.buf = s.buf ∧ t.wr = s.wr) ∧
  (∀ (p : Config.Timing) (i : CycleIn) (s : State),
    s.kbdEnabled = false → s.cyc.svc = .settle → s.cyc.svcTimer = 0 → quiet i = true →
    ∃ t, clockCycle p i s = .next t ∧ t.cyc.svc = .idle ∧ t.edgePending = s.edgePending ∧
      t.kbdEnabled = false ∧ t.clkDriveLow = s.clkDriveLow ∧ t.rxState = s.rxState ∧ t.rxAcc = s.rxAcc ∧
      t.kstate = s.kstate ∧ t.mods = s.mods ∧ t.buf = s.buf ∧ t.wr = s.wr ∧ t.rd = s.rd) ∧
  (∀ (p : Config.Timing) (is : List CycleIn) (s : State),
    CycleInv p s → s.cyc.svc = .inhibit → (∀ j ∈ is, quiet j = true) →
    is.length ≤ s.cyc.svcTimer + 1 + p.blankCycles + 1 →
    ∃ t, clockRun p is s = .next t ∧ t.edgePending = s.edgePending ∧ t.kbdEnabled = true ∧ t.rxAcc = s.rxAcc ∧
      t.kstate = s.kstate ∧ t.mods = s.mods ∧ t.buf = s.buf ∧ t.wr = s.wr ∧ t.rd = s.rd ∧ t.trace = s.trace ∧
      (is.length ≤ s.cyc.svcTimer → t.cyc.svc = .inhibit ∧ t.rxState = 11#4 ∧ t.clkDriveLow = true) ∧
      (s.cyc.svcTimer < is.length → t.rxState = 0#4 ∧ t.clkDriveLow = false) ∧
      (s.cyc.svcTimer < is.length → is.length ≤ s.cyc.svcTimer + 1 + p.blankCycles → t.cyc.svc = .blank) ∧
      (is.length = s.cyc.svcTimer + 1 + p.blankCycles + 1 → t.cyc.svc = .idle))

/-- R59, R112, R130, R139, R141: at the cycle level a response is valid in the cycle after a command and in no other;
KBDON during a transmission is the fault, and so is LINKTX while the interface is enabled; LINKTX during a transmission
is refused with OK = 0 and leaves the transmission alone: the cycle is, but for the response, the cycle without the
command, so every register and pin of the sequencer, the service and the sampling is as there, in each of their phases.
The same holds of every polling command, NOP, RXREAD, RXCOUNT, LINKBUSY, STATUS and the illegal words: the command
is executed on the state before the cycle, where it gives the response and, for RXREAD, advances `rd`, and the rest of the
cycle is the cycle without it. That the commit cycle still counts as within the transmission is the model's choice
(log 14). -/
def Obligations.CycleCommandRules : Prop :=
  ∀ (p : Config.Timing) (i : CycleIn) (s : State), i.rst = false →
    (∀ t, clockCycle p i s = .next t → t.cyc.rspValid = i.cmdValid) ∧
    (∀ a b, cycleCmd i = some (.kbdon a b) → s.txBusy = true →
      clockCycle p i s = .fault .linkWhileKeyboardEnabled) ∧
    (∀ a f, cycleCmd i = some (.linktx a f) → s.kbdEnabled = false → s.txBusy = true →
      ∃ t, clockCycle p { i with cmdValid := false }
          { s with rsp := 0x000#10, trace := .response 0x000#10 :: s.trace } = .next t ∧
        clockCycle p i s = .next { t with cyc := { t.cyc with rspValid := true } } ∧ t.rsp = 0x000#10) ∧
    (∀ a f, cycleCmd i = some (.linktx a f) → s.kbdEnabled = true →
      clockCycle p i s = .fault .linkWhileKeyboardEnabled) ∧
    (∀ instr, cycleCmd i = some instr → polling i = true →
      ∃ u t, exec instr { s with busyPin := i.busy } = .next u ∧
        u = { s with busyPin := i.busy, rd := u.rd, rsp := u.rsp, trace := .response u.rsp :: s.trace } ∧
        (isRxread (some instr) = false → u.rd = s.rd) ∧
        clockCycle p { i with cmdValid := false } u = .next t ∧
        clockCycle p i s = .next { t with cyc := { t.cyc with rspValid := true } } ∧
        t.rsp = u.rsp ∧ t.rd = u.rd)

/-- R138: KBDOFF or KBDON during a service ends it at once. With KBDOFF: in SETTLE with no effect on the receiver, the
translator or the buffer, in INHIBIT and BLANK with the recovery completed; the clock line is pulled low. With KBDON the
input side is re-initialised as well (R98, `KBDON_REINIT = FULL`, log 9) and the clock line released. A KBDON leaves no
edge pending even where no service is in progress. That a fall in the very cycle of a KBDOFF is not latched either is the
model's choice (log 15). -/
def Obligations.BracketCommandEndsService : Prop :=
  ∀ (p : Config.Timing) (i : CycleIn) (s : State) (a b : Byte), i.rst = false →
    (cycleCmd i = some (.kbdoff a b) → s.cyc.svc ≠ .idle →
      ∃ t, clockCycle p i s = .next t ∧ t.cyc.svc = .idle ∧ t.cyc.svcTimer = 0 ∧ t.edgePending = false ∧
        t.clkDriveLow = true ∧ t.kbdEnabled = false ∧
        t.rxState = (if s.cyc.svc = .settle then s.rxState else 0#4) ∧
        t.rxAcc = s.rxAcc ∧ t.kstate = s.kstate ∧ t.mods = s.mods ∧ t.buf = s.buf ∧ t.wr = s.wr ∧ t.rd = s.rd) ∧
    (cycleCmd i = some (.kbdon a b) → s.txBusy = false →
      ∃ t, clockCycle p i s = .next t ∧ t.cyc.svc = .idle ∧ (s.cyc.svc ≠ .idle → t.cyc.svcTimer = 0) ∧
        t.edgePending = false ∧ t.clkDriveLow = false ∧ t.kbdEnabled = true ∧ t.rxState = 0#4 ∧
        t.rxAcc = 0x00#8 ∧ t.kstate = 0#2 ∧ t.mods = 0x00#8 ∧ t.buf = s.buf ∧ t.wr = 0#3 ∧ t.rd = 0#3)

/-- R135, R137, R138: every cycle shifts both line levels into their two-stage synchronisers and keeps the
synchronised clock level in `clk_prev`. In a cycle without KBDON, and without a KBDOFF that ends a service, whatever
other command it carries, a fall is latched exactly while the interface is enabled before the cycle and the service is in
IDLE or SETTLE, one deep; a pending edge is taken by IDLE. The model's choices here: a fall of the very cycle in which
IDLE takes the pending edge takes its place, and so does one in the cycle of a KBDOFF that finds the service in IDLE
(log 15; log 16 says what becomes of it); R135's three conditions alone decide, also for a fall that the block's own pull
made, against R135's last sentence and R61 (log 21). So a fall of the PS/2 clock line reaches `edge_pending`
at the end of the third cycle, and not before, while the host is quiet or polls. -/
def Obligations.LineFallIsLatched : Prop :=
  (∀ (p : Config.Timing) (i : CycleIn) (s t : State), i.rst = false → clockCycle p i s = .next t →
    t.cyc.clkSync.getLsbD 0 = i.ps2Clk ∧ t.cyc.clkSync.getLsbD 1 = s.cyc.clkSync.getLsbD 0 ∧
    t.cyc.dataSync.getLsbD 0 = i.ps2Data ∧ t.cyc.dataSync.getLsbD 1 = s.cyc.dataSync.getLsbD 0 ∧
    t.cyc.clkPrev = s.cyc.clkSync.getLsbD 1) ∧
  (∀ (p : Config.Timing) (i : CycleIn) (s t : State),
    i.rst = false → isKbdon (cycleCmd i) = false → serviceEnded i s = false → clockCycle p i s = .next t →
    t.edgePending =
      ((s.cyc.clkPrev && !s.cyc.clkSync.getLsbD 1 && s.kbdEnabled &&
          (s.cyc.svc == .idle || s.cyc.svc == .settle)) ||
        (s.edgePending && s.cyc.svc != .idle))) ∧
  (∀ (p : Config.Timing) (i j k : CycleIn) (s : State),
    s.kbdEnabled = true → s.cyc.svc = .idle → s.edgePending = false → s.cyc.clkSync = 0b11#2 →
    polling i = true → polling j = true → polling k = true → i.ps2Clk = false →
    ∃ t u, clockRun p [i, j] s = .next t ∧ t.edgePending = false ∧
      clockRun p [i, j, k] s = .next u ∧ u.edgePending = true)

/-! ### The host's client -/

/-- R105: LCDWAIT leaves its loop exactly at a LINKBUSY that finds the pin at 0, and otherwise probes again. The client
is host software, outside the block (R4). -/
def Obligations.LcdWaitLeavesAtFirstZero : Prop :=
  ∀ (ops : List ClientOp) (s : State), s.level = .event → s.handoff = none →
    ∃ w t, Client.command { ops := .wait :: ops, phase := .sample } = some w ∧
      step { s with events := [.cmd w] } = .next t ∧
      (s.busyPin = true → Client.answer t.rsp { ops := .wait :: ops, phase := .sample } =
        { ops := .wait :: ops, phase := .probeLow }) ∧
      (s.busyPin = false → Client.answer t.rsp { ops := .wait :: ops, phase := .sample } =
        { ops := .wait :: ops, phase := .neutral })
end

