-- ==== Sys2Proof/Laws/Bits.lean ====
section
/-! SUPPORT. The concatenation `{x, y}` (R10): its bits, its two fields, its number. -/

namespace Sys2Proof

theorem getLsbD_cat {n m w : Nat} (x : BitVec n) (y : BitVec m) (i : Nat) :
    (cat x y : BitVec w).getLsbD i =
      (decide (i < w) && (if i < m then y.getLsbD i else x.getLsbD (i - m))) := by
  by_cases h : i < w <;> by_cases h2 : i < m <;> simp [cat, h, h2]
  intro h3
  exact absurd (BitVec.getLsbD_of_ge y i (by omega) ▸ h3) (by simp)

theorem getElem_cat {n m w : Nat} (x : BitVec n) (y : BitVec m) (i : Nat) (hi : i < w) :
    (cat x y : BitVec w)[i] = if i < m then y.getLsbD i else x.getLsbD (i - m) := by
  rw [← BitVec.getLsbD_eq_getElem, getLsbD_cat]
  simp [hi]

/-- The upper field of a concatenation. -/
theorem extract_cat_hi {n m w : Nat} (x : BitVec n) (y : BitVec m) (h : n + m ≤ w) :
    (cat x y : BitVec w).extractLsb' m n = x := by
  apply BitVec.eq_of_getLsbD_eq
  intro i hi
  have : m + i < w := by omega
  simp [getElem_cat, hi, this]

/-- The lower field of a concatenation. -/
theorem extract_cat_lo {n m w : Nat} (x : BitVec n) (y : BitVec m) (h : m ≤ w) :
    (cat x y : BitVec w).extractLsb' 0 m = y := by
  apply BitVec.eq_of_getLsbD_eq
  intro i hi
  have : i < w := by omega
  simp [getElem_cat, hi, this]

/-- A value is the concatenation of its two fields. -/
theorem cat_extract {n m w : Nat} (v : BitVec w) (h : w = n + m) :
    cat (v.extractLsb' m n) (v.extractLsb' 0 m) = v := by
  apply BitVec.eq_of_getLsbD_eq
  intro i hi
  by_cases h2 : i < m
  · simp [getElem_cat, hi, h2]
  · have e : m + (i - m) = i := by omega
    have : i - m < n := by omega
    simp [getElem_cat, hi, h2, e, this]

theorem toNat_cat {n m w : Nat} (x : BitVec n) (y : BitVec m) (h : n + m ≤ w) :
    (cat x y : BitVec w).toNat = x.toNat * 2 ^ m + y.toNat := by
  have e : (cat x y : BitVec w) = (x ++ y).setWidth w := by
    apply BitVec.eq_of_getLsbD_eq
    intro i hi
    simp only [getLsbD_cat, BitVec.getLsbD_setWidth, BitVec.getLsbD_append, hi]
  have hx := x.isLt
  have hy := y.isLt
  have hlt : x.toNat * 2 ^ m + y.toNat < 2 ^ (n + m) := by
    calc x.toNat * 2 ^ m + y.toNat < (x.toNat + 1) * 2 ^ m := by rw [Nat.add_mul]; omega
      _ ≤ 2 ^ n * 2 ^ m := Nat.mul_le_mul_right _ hx
      _ = 2 ^ (n + m) := (pow_add 2 n m).symm
  have h2 : (2 : Nat) ^ (n + m) ≤ 2 ^ w := Nat.pow_le_pow_right (by norm_num) h
  have o : x.toNat * 2 ^ m ||| y.toNat = x.toNat * 2 ^ m + y.toNat :=
    (Nat.mul_comm _ _ ▸ Nat.two_pow_add_eq_or_of_lt hy x.toNat).symm
  rw [e, BitVec.toNat_setWidth, BitVec.toNat_append, Nat.shiftLeft_eq, o, Nat.mod_eq_of_lt (by omega)]

end Sys2Proof
end

