-- ==== Sys2Proof/Laws/Decode.lean ====
section
/-! SUPPORT. The fields of the three kinds of event word, the decoders on words built from fields, and
the byte form of numbers. -/

namespace Sys2Proof

@[simp] theorem cmdWord_op (op rsv : BitVec 4) (a b : Byte) :
    (cmdWord op rsv a b).extractLsb' 20 3 = op.extractLsb' 0 3 := by
  ext i hi
  simp [cmdWord, getLsbD_cat]
  grind

@[simp] theorem cmdWord_rsv (op rsv : BitVec 4) (a b : Byte) :
    (cmdWord op rsv a b).extractLsb' 16 4 = rsv := by
  ext i hi
  simp [cmdWord, getLsbD_cat]
  grind

@[simp] theorem cmdWord_a (op rsv : BitVec 4) (a b : Byte) :
    (cmdWord op rsv a b).extractLsb' 8 8 = a := by
  ext i hi
  simp [cmdWord, getLsbD_cat]
  grind

@[simp] theorem cmdWord_b (op rsv : BitVec 4) (a b : Byte) :
    (cmdWord op rsv a b).extractLsb' 0 8 = b := by
  ext i hi
  simp [cmdWord, getLsbD_cat]
  grind

/-- The upper byte of a command word is the command code and the reserved field (R48). -/
@[simp] theorem cmdWord_hi (op rsv : BitVec 4) (a b : Byte) :
    (cmdWord op rsv a b).extractLsb' 16 8 = cat op rsv :=
  extract_cat_hi _ _ (by decide)

@[simp] theorem cmdWord_top (op rsv : BitVec 4) (a b : Byte) :
    (cmdWord op rsv a b).getLsbD 23 = op.getLsbD 3 := by
  simp [cmdWord, getElem_cat]

/-- A command word is its four fields (R48). -/
theorem cmdWord_fields (w : CmdWord) :
    cmdWord (w.extractLsb' 20 4) (w.extractLsb' 16 4) (w.extractLsb' 8 8) (w.extractLsb' 0 8) = w := by
  ext i hi
  simp [cmdWord, getLsbD_cat, getElem_cat]
  grind

/-- Decoding a command word given by its fields (R51, R52). -/
theorem decodeCmd_cmdWord (op rsv : BitVec 4) (a b : Byte) :
    decodeCmd (cmdWord op rsv a b) =
      (let o : BitVec 3 := op.extractLsb' 0 3
       if op.getLsbD 3 then .reservedOp o rsv a b
       else if rsv ≠ 0#4 then .reservedRsv o rsv a b
       else if o = 0#3 then .nop a b
       else if o = 1#3 then .rxread a b
       else if o = 2#3 then .rxcount a b
       else if o = 3#3 then .kbdoff a b
       else if o = 4#3 then .kbdon a b
       else if o = 5#3 then .linktx a b
       else if o = 6#3 then .linkbusy a b
       else .status a b) := by
  simp only [decodeCmd, cmdWord_op, cmdWord_rsv, cmdWord_a, cmdWord_b, cmdWord_top]

/-- Decoding a receiver event word given by its fields (R44). -/
theorem decodeRx_rxev (st : BitVec 4) (d : Bool) :
    decodeRx (rxev st d) =
      if st = 0#4 then .rxStart d
      else if st = 1#4 then .rxBit0 d
      else if st = 2#4 then .rxBit1 d
      else if st = 3#4 then .rxBit2 d
      else if st = 4#4 then .rxBit3 d
      else if st = 5#4 then .rxBit4 d
      else if st = 6#4 then .rxBit5 d
      else if st = 7#4 then .rxBit6 d
      else if st = 8#4 then .rxBit7 d
      else if st = 9#4 then .rxParity d
      else if st = 10#4 then .rxStop d
      else if st = 11#4 then .rxError d
      else .rxUnused (st.extractLsb' 0 2) d := by
  revert st d
  decide

/-- A receiver event word is its two fields (R44). -/
theorem rxev_fields (w : RxWord) : rxev (w.extractLsb' 1 4) (w.getLsbD 0) = w := by
  revert w
  decide

@[simp] theorem trev_kstate (ks : BitVec 2) (b : Byte) : (trev ks b).extractLsb' 8 2 = ks :=
  extract_cat_hi ks b (by decide)

@[simp] theorem trev_byte (ks : BitVec 2) (b : Byte) : (trev ks b).extractLsb' 0 8 = b :=
  extract_cat_lo ks b (by decide)

/-- A translator event word is its two fields (R46). -/
theorem trev_fields (w : TrWord) : trev (w.extractLsb' 8 2) (w.extractLsb' 0 8) = w :=
  cat_extract w rfl

/-- Decoding a translator event word given by its fields (R46). -/
theorem decodeTr_trev (ks : BitVec 2) (b : Byte) :
    decodeTr (trev ks b) =
      if ks = 0#2 then
        if b = Config.breakPrefix then .trNormalF0
        else if b = Config.extPrefix then .trNormalE0
        else .trNormalOther b
      else if ks = 1#2 then .trBreak b
      else if ks = 2#2 then
        if b = Config.breakPrefix then .trExtF0 else .trExtOther b
      else .trExtbreak b := by
  simp only [decodeTr, trev_kstate, trev_byte]

/-! ### The masks of the opcode table -/

/-- The command code and the reserved field under the table's mask. -/
theorem mask_cmd (w : CmdWord) : w.toNat &&& 0xFF0000 = (w.extractLsb' 16 8).toNat * 65536 := by
  have e : (w &&& 0xFF0000#24) = cat (w.extractLsb' 16 8) (0#16) := by
    ext i hi
    have : i = 0 ∨ i = 1 ∨ i = 2 ∨ i = 3 ∨ i = 4 ∨ i = 5 ∨ i = 6 ∨ i = 7 ∨ i = 8 ∨ i = 9 ∨ i = 10 ∨ i = 11 ∨
      i = 12 ∨ i = 13 ∨ i = 14 ∨ i = 15 ∨ i = 16 ∨ i = 17 ∨ i = 18 ∨ i = 19 ∨ i = 20 ∨ i = 21 ∨ i = 22 ∨
      i = 23 := by omega
    simp only [getElem_cat, BitVec.getElem_and]
    rcases this with rfl | rfl | rfl | rfl | rfl | rfl | rfl | rfl | rfl | rfl | rfl | rfl | rfl | rfl | rfl |
      rfl | rfl | rfl | rfl | rfl | rfl | rfl | rfl | rfl <;> simp
  have h : w.toNat &&& 0xFF0000 = (w &&& 0xFF0000#24).toNat := by simp
  rw [h, e, toNat_cat _ _ (by decide)]
  simp

/-- The top bit under the table's mask. -/
theorem mask_top (w : CmdWord) : w.toNat &&& 0x800000 = if w.getLsbD 23 then 0x800000 else 0 := by
  have e : (w &&& 0x800000#24) = if w.getLsbD 23 then 0x800000#24 else 0#24 := by
    ext i hi
    have : i = 0 ∨ i = 1 ∨ i = 2 ∨ i = 3 ∨ i = 4 ∨ i = 5 ∨ i = 6 ∨ i = 7 ∨ i = 8 ∨ i = 9 ∨ i = 10 ∨ i = 11 ∨
      i = 12 ∨ i = 13 ∨ i = 14 ∨ i = 15 ∨ i = 16 ∨ i = 17 ∨ i = 18 ∨ i = 19 ∨ i = 20 ∨ i = 21 ∨ i = 22 ∨
      i = 23 := by omega
    rcases this with rfl | rfl | rfl | rfl | rfl | rfl | rfl | rfl | rfl | rfl | rfl | rfl | rfl | rfl | rfl |
      rfl | rfl | rfl | rfl | rfl | rfl | rfl | rfl | rfl <;> by_cases h : w[23] <;> simp [h]
  have h : w.toNat &&& 0x800000 = (w &&& 0x800000#24).toNat := by simp
  rw [h, e]
  split <;> rfl

/-- The key-event state under the table's mask. -/
theorem mask_tr (w : TrWord) : w.toNat &&& 0x300 = (w.extractLsb' 8 2).toNat * 256 := by
  revert w
  decide

/-! ### Words as bytes and as numbers -/

@[simp] theorem length_natToBytes (n : Nat) : ∀ w, (natToBytes n w).length = n := by
  induction n with
  | zero => intro w; rfl
  | succ n ih => intro w; simp [natToBytes, ih]

/-- The bytes of a number give the number back. -/
theorem bytesToNat_natToBytes (n : Nat) : ∀ w, w < 256 ^ n → bytesToNat (natToBytes n w) = w := by
  induction n with
  | zero => intro w h; simp at h; subst h; rfl
  | succ n ih =>
    intro w h
    have : w / 256 < 256 ^ n := by rw [pow_succ] at h; omega
    simp [natToBytes, bytesToNat, ih _ this]
    omega

/-- The number of a word fits the bytes of its format. -/
theorem eventWord_fits (w : EventWord) : w.toNat < 256 ^ w.format.bytes := by
  cases w with
  | cmd w => exact w.isLt
  | rx w => exact lt_of_lt_of_le w.isLt (show 2 ^ 5 ≤ 256 ^ 1 by decide)
  | tr w => exact lt_of_lt_of_le w.isLt (show 2 ^ 10 ≤ 256 ^ 2 by decide)

/-- A word's number gives the word back. -/
theorem eventWord_ofNat_toNat (w : EventWord) : EventWord.ofNat w.format w.toNat = .ok w := by
  cases w with
  | cmd w => have := w.isLt; simp [EventWord.format, EventWord.ofNat, EventWord.toNat]; omega
  | rx w => have := w.isLt; simp [EventWord.format, EventWord.ofNat, EventWord.toNat]; omega
  | tr w => have := w.isLt; simp [EventWord.format, EventWord.ofNat, EventWord.toNat]; omega

end Sys2Proof
end

