-- ==== Sys2Proof/Laws/State.lean ====
section
/-! SUPPORT. One lemma per field per shared update of the state: what the update writes there, or that it
leaves the field alone. -/

namespace Sys2Proof.Machine

/-! ### observe -/

@[simp] theorem observe_rxState (o : Obs) (s : State) : (observe o s).rxState = s.rxState := rfl
@[simp] theorem observe_rxAcc (o : Obs) (s : State) : (observe o s).rxAcc = s.rxAcc := rfl
@[simp] theorem observe_kbdEnabled (o : Obs) (s : State) : (observe o s).kbdEnabled = s.kbdEnabled := rfl
@[simp] theorem observe_edgePending (o : Obs) (s : State) : (observe o s).edgePending = s.edgePending := rfl
@[simp] theorem observe_clkDriveLow (o : Obs) (s : State) : (observe o s).clkDriveLow = s.clkDriveLow := rfl
@[simp] theorem observe_kstate (o : Obs) (s : State) : (observe o s).kstate = s.kstate := rfl
@[simp] theorem observe_mods (o : Obs) (s : State) : (observe o s).mods = s.mods := rfl
@[simp] theorem observe_buf (o : Obs) (s : State) : (observe o s).buf = s.buf := rfl
@[simp] theorem observe_wr (o : Obs) (s : State) : (observe o s).wr = s.wr := rfl
@[simp] theorem observe_rd (o : Obs) (s : State) : (observe o s).rd = s.rd := rfl
@[simp] theorem observe_outAddr (o : Obs) (s : State) : (observe o s).outAddr = s.outAddr := rfl
@[simp] theorem observe_outFlags (o : Obs) (s : State) : (observe o s).outFlags = s.outFlags := rfl
@[simp] theorem observe_linkSr (o : Obs) (s : State) : (observe o s).linkSr = s.linkSr := rfl
@[simp] theorem observe_txBusy (o : Obs) (s : State) : (observe o s).txBusy = s.txBusy := rfl
@[simp] theorem observe_rsp (o : Obs) (s : State) : (observe o s).rsp = s.rsp := rfl
@[simp] theorem observe_busyPin (o : Obs) (s : State) : (observe o s).busyPin = s.busyPin := rfl
@[simp] theorem observe_cyc (o : Obs) (s : State) : (observe o s).cyc = s.cyc := rfl
@[simp] theorem observe_level (o : Obs) (s : State) : (observe o s).level = s.level := rfl
@[simp] theorem observe_events (o : Obs) (s : State) : (observe o s).events = s.events := rfl
@[simp] theorem observe_cycles (o : Obs) (s : State) : (observe o s).cycles = s.cycles := rfl
@[simp] theorem observe_handoff (o : Obs) (s : State) : (observe o s).handoff = s.handoff := rfl
@[simp] theorem observe_trace (o : Obs) (s : State) : (observe o s).trace = o :: s.trace := rfl

/-! ### respond -/

@[simp] theorem respond_rxState (ok err : Bool) (data : Byte) (s : State) : (respond ok err data s).rxState = s.rxState := rfl
@[simp] theorem respond_rxAcc (ok err : Bool) (data : Byte) (s : State) : (respond ok err data s).rxAcc = s.rxAcc := rfl
@[simp] theorem respond_kbdEnabled (ok err : Bool) (data : Byte) (s : State) : (respond ok err data s).kbdEnabled = s.kbdEnabled := rfl
@[simp] theorem respond_edgePending (ok err : Bool) (data : Byte) (s : State) : (respond ok err data s).edgePending = s.edgePending := rfl
@[simp] theorem respond_clkDriveLow (ok err : Bool) (data : Byte) (s : State) : (respond ok err data s).clkDriveLow = s.clkDriveLow := rfl
@[simp] theorem respond_kstate (ok err : Bool) (data : Byte) (s : State) : (respond ok err data s).kstate = s.kstate := rfl
@[simp] theorem respond_mods (ok err : Bool) (data : Byte) (s : State) : (respond ok err data s).mods = s.mods := rfl
@[simp] theorem respond_buf (ok err : Bool) (data : Byte) (s : State) : (respond ok err data s).buf = s.buf := rfl
@[simp] theorem respond_wr (ok err : Bool) (data : Byte) (s : State) : (respond ok err data s).wr = s.wr := rfl
@[simp] theorem respond_rd (ok err : Bool) (data : Byte) (s : State) : (respond ok err data s).rd = s.rd := rfl
@[simp] theorem respond_outAddr (ok err : Bool) (data : Byte) (s : State) : (respond ok err data s).outAddr = s.outAddr := rfl
@[simp] theorem respond_outFlags (ok err : Bool) (data : Byte) (s : State) : (respond ok err data s).outFlags = s.outFlags := rfl
@[simp] theorem respond_linkSr (ok err : Bool) (data : Byte) (s : State) : (respond ok err data s).linkSr = s.linkSr := rfl
@[simp] theorem respond_txBusy (ok err : Bool) (data : Byte) (s : State) : (respond ok err data s).txBusy = s.txBusy := rfl
@[simp] theorem respond_rsp (ok err : Bool) (data : Byte) (s : State) : (respond ok err data s).rsp = mkRsp ok err data := rfl
@[simp] theorem respond_busyPin (ok err : Bool) (data : Byte) (s : State) : (respond ok err data s).busyPin = s.busyPin := rfl
@[simp] theorem respond_cyc (ok err : Bool) (data : Byte) (s : State) : (respond ok err data s).cyc = s.cyc := rfl
@[simp] theorem respond_level (ok err : Bool) (data : Byte) (s : State) : (respond ok err data s).level = s.level := rfl
@[simp] theorem respond_events (ok err : Bool) (data : Byte) (s : State) : (respond ok err data s).events = s.events := rfl
@[simp] theorem respond_cycles (ok err : Bool) (data : Byte) (s : State) : (respond ok err data s).cycles = s.cycles := rfl
@[simp] theorem respond_handoff (ok err : Bool) (data : Byte) (s : State) : (respond ok err data s).handoff = s.handoff := rfl
@[simp] theorem respond_trace (ok err : Bool) (data : Byte) (s : State) : (respond ok err data s).trace = .response (mkRsp ok err data) :: s.trace := rfl

/-! ### push -/

@[simp] theorem push_rxState (v : Byte) (s : State) : (push v s).rxState = s.rxState := rfl
@[simp] theorem push_rxAcc (v : Byte) (s : State) : (push v s).rxAcc = s.rxAcc := rfl
@[simp] theorem push_kbdEnabled (v : Byte) (s : State) : (push v s).kbdEnabled = s.kbdEnabled := rfl
@[simp] theorem push_edgePending (v : Byte) (s : State) : (push v s).edgePending = s.edgePending := rfl
@[simp] theorem push_clkDriveLow (v : Byte) (s : State) : (push v s).clkDriveLow = s.clkDriveLow := rfl
@[simp] theorem push_kstate (v : Byte) (s : State) : (push v s).kstate = s.kstate := rfl
@[simp] theorem push_mods (v : Byte) (s : State) : (push v s).mods = s.mods := rfl
@[simp] theorem push_buf (v : Byte) (s : State) : (push v s).buf = bufWrite s.buf s.wr v := rfl
@[simp] theorem push_wr (v : Byte) (s : State) : (push v s).wr = s.wr + 1#3 := rfl
@[simp] theorem push_rd (v : Byte) (s : State) : (push v s).rd = s.rd := rfl
@[simp] theorem push_outAddr (v : Byte) (s : State) : (push v s).outAddr = s.outAddr := rfl
@[simp] theorem push_outFlags (v : Byte) (s : State) : (push v s).outFlags = s.outFlags := rfl
@[simp] theorem push_linkSr (v : Byte) (s : State) : (push v s).linkSr = s.linkSr := rfl
@[simp] theorem push_txBusy (v : Byte) (s : State) : (push v s).txBusy = s.txBusy := rfl
@[simp] theorem push_rsp (v : Byte) (s : State) : (push v s).rsp = s.rsp := rfl
@[simp] theorem push_busyPin (v : Byte) (s : State) : (push v s).busyPin = s.busyPin := rfl
@[simp] theorem push_cyc (v : Byte) (s : State) : (push v s).cyc = s.cyc := rfl
@[simp] theorem push_level (v : Byte) (s : State) : (push v s).level = s.level := rfl
@[simp] theorem push_events (v : Byte) (s : State) : (push v s).events = s.events := rfl
@[simp] theorem push_cycles (v : Byte) (s : State) : (push v s).cycles = s.cycles := rfl
@[simp] theorem push_handoff (v : Byte) (s : State) : (push v s).handoff = s.handoff := rfl
@[simp] theorem push_trace (v : Byte) (s : State) : (push v s).trace = s.trace := rfl

/-! ### takeBit -/

@[simp] theorem takeBit_rxState (d : Bool) (n : BitVec 4) (s : State) : (takeBit d n s).rxState = n := rfl
@[simp] theorem takeBit_rxAcc (d : Bool) (n : BitVec 4) (s : State) : (takeBit d n s).rxAcc = shiftAcc d s.rxAcc := rfl
@[simp] theorem takeBit_kbdEnabled (d : Bool) (n : BitVec 4) (s : State) : (takeBit d n s).kbdEnabled = s.kbdEnabled := rfl
@[simp] theorem takeBit_edgePending (d : Bool) (n : BitVec 4) (s : State) : (takeBit d n s).edgePending = s.edgePending := rfl
@[simp] theorem takeBit_clkDriveLow (d : Bool) (n : BitVec 4) (s : State) : (takeBit d n s).clkDriveLow = s.clkDriveLow := rfl
@[simp] theorem takeBit_kstate (d : Bool) (n : BitVec 4) (s : State) : (takeBit d n s).kstate = s.kstate := rfl
@[simp] theorem takeBit_mods (d : Bool) (n : BitVec 4) (s : State) : (takeBit d n s).mods = s.mods := rfl
@[simp] theorem takeBit_buf (d : Bool) (n : BitVec 4) (s : State) : (takeBit d n s).buf = s.buf := rfl
@[simp] theorem takeBit_wr (d : Bool) (n : BitVec 4) (s : State) : (takeBit d n s).wr = s.wr := rfl
@[simp] theorem takeBit_rd (d : Bool) (n : BitVec 4) (s : State) : (takeBit d n s).rd = s.rd := rfl
@[simp] theorem takeBit_outAddr (d : Bool) (n : BitVec 4) (s : State) : (takeBit d n s).outAddr = s.outAddr := rfl
@[simp] theorem takeBit_outFlags (d : Bool) (n : BitVec 4) (s : State) : (takeBit d n s).outFlags = s.outFlags := rfl
@[simp] theorem takeBit_linkSr (d : Bool) (n : BitVec 4) (s : State) : (takeBit d n s).linkSr = s.linkSr := rfl
@[simp] theorem takeBit_txBusy (d : Bool) (n : BitVec 4) (s : State) : (takeBit d n s).txBusy = s.txBusy := rfl
@[simp] theorem takeBit_rsp (d : Bool) (n : BitVec 4) (s : State) : (takeBit d n s).rsp = s.rsp := rfl
@[simp] theorem takeBit_busyPin (d : Bool) (n : BitVec 4) (s : State) : (takeBit d n s).busyPin = s.busyPin := rfl
@[simp] theorem takeBit_cyc (d : Bool) (n : BitVec 4) (s : State) : (takeBit d n s).cyc = s.cyc := rfl
@[simp] theorem takeBit_level (d : Bool) (n : BitVec 4) (s : State) : (takeBit d n s).level = s.level := rfl
@[simp] theorem takeBit_events (d : Bool) (n : BitVec 4) (s : State) : (takeBit d n s).events = s.events := rfl
@[simp] theorem takeBit_cycles (d : Bool) (n : BitVec 4) (s : State) : (takeBit d n s).cycles = s.cycles := rfl
@[simp] theorem takeBit_handoff (d : Bool) (n : BitVec 4) (s : State) : (takeBit d n s).handoff = s.handoff := rfl
@[simp] theorem takeBit_trace (d : Bool) (n : BitVec 4) (s : State) : (takeBit d n s).trace = s.trace := rfl

/-! ### raiseFraming -/

@[simp] theorem raiseFraming_rxState (c : FramingCause) (s : State) : (raiseFraming c s).rxState = rxError := rfl
@[simp] theorem raiseFraming_rxAcc (c : FramingCause) (s : State) : (raiseFraming c s).rxAcc = s.rxAcc := rfl
@[simp] theorem raiseFraming_kbdEnabled (c : FramingCause) (s : State) : (raiseFraming c s).kbdEnabled = s.kbdEnabled := rfl
@[simp] theorem raiseFraming_edgePending (c : FramingCause) (s : State) : (raiseFraming c s).edgePending = s.edgePending := rfl
@[simp] theorem raiseFraming_clkDriveLow (c : FramingCause) (s : State) : (raiseFraming c s).clkDriveLow = s.clkDriveLow := rfl
@[simp] theorem raiseFraming_kstate (c : FramingCause) (s : State) : (raiseFraming c s).kstate = s.kstate := rfl
@[simp] theorem raiseFraming_mods (c : FramingCause) (s : State) : (raiseFraming c s).mods = s.mods := rfl
@[simp] theorem raiseFraming_buf (c : FramingCause) (s : State) : (raiseFraming c s).buf = s.buf := rfl
@[simp] theorem raiseFraming_wr (c : FramingCause) (s : State) : (raiseFraming c s).wr = s.wr := rfl
@[simp] theorem raiseFraming_rd (c : FramingCause) (s : State) : (raiseFraming c s).rd = s.rd := rfl
@[simp] theorem raiseFraming_outAddr (c : FramingCause) (s : State) : (raiseFraming c s).outAddr = s.outAddr := rfl
@[simp] theorem raiseFraming_outFlags (c : FramingCause) (s : State) : (raiseFraming c s).outFlags = s.outFlags := rfl
@[simp] theorem raiseFraming_linkSr (c : FramingCause) (s : State) : (raiseFraming c s).linkSr = s.linkSr := rfl
@[simp] theorem raiseFraming_txBusy (c : FramingCause) (s : State) : (raiseFraming c s).txBusy = s.txBusy := rfl
@[simp] theorem raiseFraming_rsp (c : FramingCause) (s : State) : (raiseFraming c s).rsp = s.rsp := rfl
@[simp] theorem raiseFraming_busyPin (c : FramingCause) (s : State) : (raiseFraming c s).busyPin = s.busyPin := rfl
@[simp] theorem raiseFraming_cyc (c : FramingCause) (s : State) : (raiseFraming c s).cyc = s.cyc := rfl
@[simp] theorem raiseFraming_level (c : FramingCause) (s : State) : (raiseFraming c s).level = s.level := rfl
@[simp] theorem raiseFraming_events (c : FramingCause) (s : State) : (raiseFraming c s).events = s.events := rfl
@[simp] theorem raiseFraming_cycles (c : FramingCause) (s : State) : (raiseFraming c s).cycles = s.cycles := rfl
@[simp] theorem raiseFraming_handoff (c : FramingCause) (s : State) : (raiseFraming c s).handoff = s.handoff := rfl
@[simp] theorem raiseFraming_trace (c : FramingCause) (s : State) : (raiseFraming c s).trace = .framingError c :: s.trace := rfl

/-! ### recovery -/

@[simp] theorem recovery_rxState (s : State) : (recovery s).rxState = rxAwaitStart := rfl
@[simp] theorem recovery_rxAcc (s : State) : (recovery s).rxAcc = s.rxAcc := rfl
@[simp] theorem recovery_kbdEnabled (s : State) : (recovery s).kbdEnabled = s.kbdEnabled := rfl
@[simp] theorem recovery_edgePending (s : State) : (recovery s).edgePending = s.edgePending := rfl
@[simp] theorem recovery_clkDriveLow (s : State) : (recovery s).clkDriveLow = false := rfl
@[simp] theorem recovery_kstate (s : State) : (recovery s).kstate = s.kstate := rfl
@[simp] theorem recovery_mods (s : State) : (recovery s).mods = s.mods := rfl
@[simp] theorem recovery_buf (s : State) : (recovery s).buf = s.buf := rfl
@[simp] theorem recovery_wr (s : State) : (recovery s).wr = s.wr := rfl
@[simp] theorem recovery_rd (s : State) : (recovery s).rd = s.rd := rfl
@[simp] theorem recovery_outAddr (s : State) : (recovery s).outAddr = s.outAddr := rfl
@[simp] theorem recovery_outFlags (s : State) : (recovery s).outFlags = s.outFlags := rfl
@[simp] theorem recovery_linkSr (s : State) : (recovery s).linkSr = s.linkSr := rfl
@[simp] theorem recovery_txBusy (s : State) : (recovery s).txBusy = s.txBusy := rfl
@[simp] theorem recovery_rsp (s : State) : (recovery s).rsp = s.rsp := rfl
@[simp] theorem recovery_busyPin (s : State) : (recovery s).busyPin = s.busyPin := rfl
@[simp] theorem recovery_cyc (s : State) : (recovery s).cyc = s.cyc := rfl
@[simp] theorem recovery_level (s : State) : (recovery s).level = s.level := rfl
@[simp] theorem recovery_events (s : State) : (recovery s).events = s.events := rfl
@[simp] theorem recovery_cycles (s : State) : (recovery s).cycles = s.cycles := rfl
@[simp] theorem recovery_handoff (s : State) : (recovery s).handoff = s.handoff := rfl
@[simp] theorem recovery_trace (s : State) : (recovery s).trace = .inhibitPulse :: s.trace := rfl

/-! ### shiftEdge -/

@[simp] theorem shiftEdge_rxState (b : Bool) (s : State) : (shiftEdge b s).rxState = s.rxState := rfl
@[simp] theorem shiftEdge_rxAcc (b : Bool) (s : State) : (shiftEdge b s).rxAcc = s.rxAcc := rfl
@[simp] theorem shiftEdge_kbdEnabled (b : Bool) (s : State) : (shiftEdge b s).kbdEnabled = s.kbdEnabled := rfl
@[simp] theorem shiftEdge_edgePending (b : Bool) (s : State) : (shiftEdge b s).edgePending = s.edgePending := rfl
@[simp] theorem shiftEdge_clkDriveLow (b : Bool) (s : State) : (shiftEdge b s).clkDriveLow = s.clkDriveLow := rfl
@[simp] theorem shiftEdge_kstate (b : Bool) (s : State) : (shiftEdge b s).kstate = s.kstate := rfl
@[simp] theorem shiftEdge_mods (b : Bool) (s : State) : (shiftEdge b s).mods = s.mods := rfl
@[simp] theorem shiftEdge_buf (b : Bool) (s : State) : (shiftEdge b s).buf = s.buf := rfl
@[simp] theorem shiftEdge_wr (b : Bool) (s : State) : (shiftEdge b s).wr = s.wr := rfl
@[simp] theorem shiftEdge_rd (b : Bool) (s : State) : (shiftEdge b s).rd = s.rd := rfl
@[simp] theorem shiftEdge_outAddr (b : Bool) (s : State) : (shiftEdge b s).outAddr = s.outAddr := rfl
@[simp] theorem shiftEdge_outFlags (b : Bool) (s : State) : (shiftEdge b s).outFlags = s.outFlags := rfl
@[simp] theorem shiftEdge_linkSr (b : Bool) (s : State) : (shiftEdge b s).linkSr = shiftIn s.linkSr b := rfl
@[simp] theorem shiftEdge_txBusy (b : Bool) (s : State) : (shiftEdge b s).txBusy = s.txBusy := rfl
@[simp] theorem shiftEdge_rsp (b : Bool) (s : State) : (shiftEdge b s).rsp = s.rsp := rfl
@[simp] theorem shiftEdge_busyPin (b : Bool) (s : State) : (shiftEdge b s).busyPin = s.busyPin := rfl
@[simp] theorem shiftEdge_cyc (b : Bool) (s : State) : (shiftEdge b s).cyc = s.cyc := rfl
@[simp] theorem shiftEdge_level (b : Bool) (s : State) : (shiftEdge b s).level = s.level := rfl
@[simp] theorem shiftEdge_events (b : Bool) (s : State) : (shiftEdge b s).events = s.events := rfl
@[simp] theorem shiftEdge_cycles (b : Bool) (s : State) : (shiftEdge b s).cycles = s.cycles := rfl
@[simp] theorem shiftEdge_handoff (b : Bool) (s : State) : (shiftEdge b s).handoff = s.handoff := rfl
@[simp] theorem shiftEdge_trace (b : Bool) (s : State) : (shiftEdge b s).trace = .shiftEdge b :: s.trace := rfl

/-! ### latchOutputs -/

@[simp] theorem latchOutputs_rxState (s : State) : (latchOutputs s).rxState = s.rxState := rfl
@[simp] theorem latchOutputs_rxAcc (s : State) : (latchOutputs s).rxAcc = s.rxAcc := rfl
@[simp] theorem latchOutputs_kbdEnabled (s : State) : (latchOutputs s).kbdEnabled = s.kbdEnabled := rfl
@[simp] theorem latchOutputs_edgePending (s : State) : (latchOutputs s).edgePending = s.edgePending := rfl
@[simp] theorem latchOutputs_clkDriveLow (s : State) : (latchOutputs s).clkDriveLow = s.clkDriveLow := rfl
@[simp] theorem latchOutputs_kstate (s : State) : (latchOutputs s).kstate = s.kstate := rfl
@[simp] theorem latchOutputs_mods (s : State) : (latchOutputs s).mods = s.mods := rfl
@[simp] theorem latchOutputs_buf (s : State) : (latchOutputs s).buf = s.buf := rfl
@[simp] theorem latchOutputs_wr (s : State) : (latchOutputs s).wr = s.wr := rfl
@[simp] theorem latchOutputs_rd (s : State) : (latchOutputs s).rd = s.rd := rfl
@[simp] theorem latchOutputs_outAddr (s : State) : (latchOutputs s).outAddr = farReg s.linkSr := rfl
@[simp] theorem latchOutputs_outFlags (s : State) : (latchOutputs s).outFlags = nearReg s.linkSr := rfl
@[simp] theorem latchOutputs_linkSr (s : State) : (latchOutputs s).linkSr = s.linkSr := rfl
@[simp] theorem latchOutputs_txBusy (s : State) : (latchOutputs s).txBusy = s.txBusy := rfl
@[simp] theorem latchOutputs_rsp (s : State) : (latchOutputs s).rsp = s.rsp := rfl
@[simp] theorem latchOutputs_busyPin (s : State) : (latchOutputs s).busyPin = s.busyPin := rfl
@[simp] theorem latchOutputs_cyc (s : State) : (latchOutputs s).cyc = s.cyc := rfl
@[simp] theorem latchOutputs_level (s : State) : (latchOutputs s).level = s.level := rfl
@[simp] theorem latchOutputs_events (s : State) : (latchOutputs s).events = s.events := rfl
@[simp] theorem latchOutputs_cycles (s : State) : (latchOutputs s).cycles = s.cycles := rfl
@[simp] theorem latchOutputs_handoff (s : State) : (latchOutputs s).handoff = s.handoff := rfl
@[simp] theorem latchOutputs_trace (s : State) : (latchOutputs s).trace = .latch (farReg s.linkSr) (nearReg s.linkSr) :: s.trace := rfl

end Sys2Proof.Machine
end

