-- ==== Sys2Proof/Laws/Ops.lean ====
section
/-! SUPPORT. One law per shared operation: responses, parity, modifiers, the accumulator, the link's shift and
latch, the buffer, outcomes. -/

namespace Sys2Proof.Machine

/-! ### Outcomes -/

@[simp] theorem andThen_next (s : State) (f : State → Res) : andThen (.next s) f = f s := rfl
@[simp] theorem andThen_fault (r : Fault) (f : State → Res) : andThen (.fault r) f = .fault r := rfl
@[simp] theorem andThen_refused (r : Refusal) (f : State → Res) : andThen (.refused r) f = .refused r := rfl

/-- A sequence answers a next state exactly when both parts do. -/
theorem andThen_eq_next (o : Res) (f : State → Res) (t : State) :
    andThen o f = .next t ↔ ∃ s, o = .next s ∧ f s = .next t := by
  cases o <;> simp [andThen]

/-! ### Responses (R50) -/

@[simp] theorem rspErr_mkRsp (ok err : Bool) (data : Byte) : rspErr (mkRsp ok err data) = err := by
  simp [rspErr, mkRsp, getElem_cat]

@[simp] theorem rspOk_mkRsp (ok err : Bool) (data : Byte) : rspOk (mkRsp ok err data) = ok := by
  simp [rspOk, mkRsp, getElem_cat]

@[simp] theorem rspData_mkRsp (ok err : Bool) (data : Byte) : rspData (mkRsp ok err data) = data :=
  extract_cat_lo _ data (by decide)

/-! ### Parity (R67) -/

/-- `xor8(v) xor d` is 1 exactly when the one bits of `v` and `d` together are odd in number. -/
theorem parity_odd (v : Byte) (d : Bool) :
    (popcount v + d.toNat) % 2 = 1 ↔ (xor8 v ^^ d) = true := by
  simp only [popcount, xor8]
  generalize v.getLsbD 0 = b0
  generalize v.getLsbD 1 = b1
  generalize v.getLsbD 2 = b2
  generalize v.getLsbD 3 = b3
  generalize v.getLsbD 4 = b4
  generalize v.getLsbD 5 = b5
  generalize v.getLsbD 6 = b6
  generalize v.getLsbD 7 = b7
  revert b0 b1 b2 b3 b4 b5 b6 b7 d
  decide

/-! ### The accumulator (R65) -/

theorem shiftAcc_top (d : Bool) (acc : Byte) : (shiftAcc d acc).getLsbD 7 = d := by
  simp [shiftAcc, getElem_cat]

theorem shiftAcc_low (d : Bool) (acc : Byte) (k : Nat) (hk : k < 7) :
    (shiftAcc d acc).getLsbD k = acc.getLsbD (k + 1) := by
  have : k < 8 := by omega
  simp only [shiftAcc, getLsbD_cat, BitVec.getLsbD_extractLsb', hk, this, decide_true, Bool.true_and, if_true,
    Nat.add_comm 1 k]

/-- A shift keeps the bits that no data bit has reached at zero (R65). -/
theorem shiftAcc_zeros (st : BitVec 4) (acc : Byte) (d : Bool) (h1 : 1#4 ≤ st) (h2 : st ≤ 7#4)
    (h : acc <<< (st.toNat - 1) = 0#8) : shiftAcc d acc <<< ((st + 1#4).toNat - 1) = 0#8 := by
  revert st acc d
  decide

/-- Eight data bits replace the whole accumulator, the first at bit 0 (R66). -/
theorem eight_shifts (b acc : Byte) :
    shiftAcc (b.getLsbD 7) (shiftAcc (b.getLsbD 6) (shiftAcc (b.getLsbD 5) (shiftAcc (b.getLsbD 4)
      (shiftAcc (b.getLsbD 3) (shiftAcc (b.getLsbD 2) (shiftAcc (b.getLsbD 1) (shiftAcc (b.getLsbD 0) acc)))))))
      = b := by
  apply BitVec.eq_of_getLsbD_eq
  intro i hi
  have : i = 0 ∨ i = 1 ∨ i = 2 ∨ i = 3 ∨ i = 4 ∨ i = 5 ∨ i = 6 ∨ i = 7 := by omega
  rcases this with rfl | rfl | rfl | rfl | rfl | rfl | rfl | rfl <;>
    simp only [shiftAcc_top, shiftAcc_low, Nat.reduceLT, Nat.reduceAdd]

/-! ### Modifiers (R23, R78, R79) -/

/-- Setting the modifier a code names sets its bit and no other. -/
theorem getLsbD_setModifier (mods : Byte) (m : Option Modifier) (k : Nat) :
    (setModifier mods m).getLsbD k =
      (mods.getLsbD k || match m with | some m => m.mask.getLsbD k | none => false) := by
  cases m <;> simp [setModifier]

/-- Clearing it clears its bit and no other. -/
theorem getLsbD_clearModifier (mods : Byte) (m : Option Modifier) (k : Nat) (hk : k < 8) :
    (clearModifier mods m).getLsbD k =
      (mods.getLsbD k && !(match m with | some m => m.mask.getLsbD k | none => false)) := by
  cases m <;> simp [clearModifier, hk]

/-! ### The link (R47, R55, R56) -/

/-- Shift edges move their bits through the cascade and show them. -/
theorem shiftEdges_eq (bs : List Bool) : ∀ s, shiftEdges bs s =
    { s with linkSr := bs.foldl shiftIn s.linkSr, trace := (bs.map Obs.shiftEdge).reverse ++ s.trace } := by
  induction bs with
  | nil => intro s; rfl
  | cons b bs ih => intro s; simp [shiftEdges, ih, shiftEdge]

/-- After the sixteen edges of a frame the far register holds the address and the near one the flags (R55). -/
theorem shiftIn_linkBits (a f : Byte) (sr : BitVec 16) : (linkBits a f).foldl shiftIn sr = cat a f := by
  simp only [linkBits, msbFirst, shiftIn, List.cons_append, List.nil_append, List.foldl]
  ext i hi
  have : i = 0 ∨ i = 1 ∨ i = 2 ∨ i = 3 ∨ i = 4 ∨ i = 5 ∨ i = 6 ∨ i = 7 ∨ i = 8 ∨ i = 9 ∨ i = 10 ∨
    i = 11 ∨ i = 12 ∨ i = 13 ∨ i = 14 ∨ i = 15 := by omega
  rcases this with rfl | rfl | rfl | rfl | rfl | rfl | rfl | rfl | rfl | rfl | rfl | rfl | rfl | rfl | rfl | rfl <;>
    simp [getElem_cat]

@[simp] theorem farReg_cat (a f : Byte) : farReg (cat a f) = a := extract_cat_hi a f (by decide)
@[simp] theorem nearReg_cat (a f : Byte) : nearReg (cat a f) = f := extract_cat_lo a f (by decide)

theorem cat_eq_ofNat (a f : Byte) : (cat a f : BitVec 16) = BitVec.ofNat 16 (256 * a.toNat + f.toNat) := by
  apply BitVec.eq_of_toNat_eq
  rw [toNat_cat _ _ (by decide)]
  have := a.isLt
  have := f.isLt
  simp
  omega

/-! ### The buffer (R29, R90) -/

/-- A read after a write to the same entry gives the value written. -/
@[simp] theorem bufRead_bufWrite_same (buf : Vector Byte Config.cap) (i : Cursor) (v : Byte) :
    bufRead (bufWrite buf i v) i = v := by
  simp [bufRead, bufWrite]

/-- A write leaves every other entry alone. -/
theorem bufRead_bufWrite_other (buf : Vector Byte Config.cap) (i j : Cursor) (v : Byte) (h : i ≠ j) :
    bufRead (bufWrite buf i v) j = bufRead buf j := by
  have : i.toNat ≠ j.toNat := fun e => h (BitVec.eq_of_toNat_eq e)
  simp [bufRead, bufWrite, this]

/-- Pushing advances the occupancy by one mod CAP. -/
theorem occupancy_push (v : Byte) (s : State) :
    occupancy (push v s).wr (push v s).rd = occupancy s.wr s.rd + 1#3 := by
  simp only [occupancy, push_wr, push_rd]
  generalize s.wr = w
  generalize s.rd = r
  revert w r
  decide

/-! ### Recovery (R63, R71) -/

/-- The final test of rule R63: recovery runs in ERROR and nowhere else. -/
theorem recoverIfError_cases (s : State) :
    (s.rxState = rxError ∧ recoverIfError s = recovery s) ∨
    (s.rxState ≠ rxError ∧ recoverIfError s = s) := by
  by_cases h : s.rxState = rxError <;> simp [recoverIfError, h]

/-- After the final test the receiver is not in ERROR. -/
theorem recoverIfError_ne_error (s : State) : (recoverIfError s).rxState ≠ rxError := by
  rcases recoverIfError_cases s with ⟨-, h⟩ | ⟨h', h⟩
  · rw [h, recovery_rxState]; decide
  · rw [h]; exact h'

end Sys2Proof.Machine
end

