-- ==== Sys2Proof/Laws/Pipeline.lean ====
section
/-! SUPPORT. What the receive pipeline and the commands can do, said once: the instructions of each format
complete, and which fields they may write. -/

namespace Sys2Proof.Machine

/-! ### Frames, one per format -/

/-- A receiver instruction completes and writes nothing but the receiver's registers, the byte handed over and
the trace (R64 to R70). -/
theorem exec_rx (i : Instr) (s : State) (h : (encode i).format = .rxEvent) : ∃ t, exec i s = .next t ∧
    t = { s with rxState := t.rxState, rxAcc := t.rxAcc, handoff := t.handoff, trace := t.trace } := by
  cases i with
  | rxStart d => cases d <;> exact ⟨_, rfl, rfl⟩
  | rxStop d => cases d <;> exact ⟨_, rfl, rfl⟩
  | rxParity d =>
    simp only [exec, execRxParity]
    split <;> exact ⟨_, rfl, rfl⟩
  | nop | rxread | rxcount | kbdoff | kbdon | linktx | linkbusy | status | reservedOp | reservedRsv
  | trNormalF0 | trNormalE0 | trNormalOther | trBreak | trExtF0 | trExtOther | trExtbreak =>
    simp [encode, EventWord.format] at h
  | _ => exact ⟨_, rfl, rfl⟩

theorem format_decodeRx (w : RxWord) : (encode (decodeRx w)).format = .rxEvent := by
  revert w
  decide

/-- So does every receiver event word (R44). -/
theorem exec_decodeRx (w : RxWord) (s : State) : ∃ t, exec (decodeRx w) s = .next t ∧
    t = { s with rxState := t.rxState, rxAcc := t.rxAcc, handoff := t.handoff, trace := t.trace } :=
  exec_rx _ s (format_decodeRx w)

/-- A byte that gives no character changes nothing but the modifiers and, for Escape, the buffer. -/
theorem noCharacter_frame (b : Byte) (s : State) :
    noCharacter b s = { s with kstate := (noCharacter b s).kstate, mods := (noCharacter b s).mods,
                               buf := (noCharacter b s).buf, wr := (noCharacter b s).wr } := by
  simp only [noCharacter]
  split <;> rfl

/-- A translator event completes and writes nothing but the translator's registers and the buffer's write side
(R46, R75). -/
theorem exec_decodeTr (w : TrWord) (s : State) : ∃ t, exec (decodeTr w) s = .next t ∧
    t = { s with kstate := t.kstate, mods := t.mods, buf := t.buf, wr := t.wr } := by
  rw [← trev_fields w, decodeTr_trev]
  split_ifs
  all_goals try exact ⟨_, rfl, rfl⟩
  simp only [exec, execTrNormalOther]
  split
  · exact ⟨_, rfl, rfl⟩
  · exact ⟨_, rfl, noCharacter_frame _ _⟩

/-- The translator's step for a byte handed over runs its row's instruction (R46, R75). -/
theorem runTranslator_some (b : Byte) (s : State) (h : s.handoff = some b) : runTranslator s =
    if s.kstate = 0#2 then
      if b = Config.breakPrefix then execTrNormalF0 { s with handoff := none }
      else if b = Config.extPrefix then execTrNormalE0 { s with handoff := none }
      else execTrNormalOther b { s with handoff := none }
    else if s.kstate = 1#2 then execTrBreak b { s with handoff := none }
    else if s.kstate = 2#2 then
      if b = Config.breakPrefix then execTrExtF0 { s with handoff := none }
      else execTrExtOther b { s with handoff := none }
    else execTrExtbreak b { s with handoff := none } := by
  rw [runTranslator, h]
  simp only [decodeTr_trev]
  split_ifs <;> rfl

/-- The translator's step completes; afterwards no byte is handed over. -/
theorem runTranslator_spec (s : State) : ∃ t, runTranslator s = .next t ∧
    t = { s with handoff := none, kstate := t.kstate, mods := t.mods, buf := t.buf, wr := t.wr } := by
  unfold runTranslator
  split
  · next h => exact ⟨s, rfl, by cases s; simp_all⟩
  · next b h =>
    obtain ⟨t, ht, hf⟩ := exec_decodeTr (trev s.kstate b) { s with handoff := none }
    exact ⟨t, ht, hf⟩

/-- The state rule with the translator's step completes and writes nothing but the input side and the trace. -/
theorem receive_spec (d : Bool) (s : State) : ∃ t, receive d s = .next t ∧
    t = { s with rxState := t.rxState, rxAcc := t.rxAcc, handoff := none, kstate := t.kstate,
                 mods := t.mods, buf := t.buf, wr := t.wr, trace := t.trace } := by
  obtain ⟨u, hu, fu⟩ := exec_decodeRx (rxev s.rxState d) s
  obtain ⟨t, ht, ft⟩ := runTranslator_spec u
  refine ⟨t, by simp [receive, hu, ht], ?_⟩
  rw [ft, fu]

/-- An edge completes and writes nothing but the input side, the clock line and the trace. -/
theorem edgeStep_spec (d : Bool) (s : State) (h : s.handoff = none) : ∃ t, edgeStep d s = .next t ∧
    t = { s with rxState := t.rxState, rxAcc := t.rxAcc, kstate := t.kstate, mods := t.mods, buf := t.buf,
                 wr := t.wr, clkDriveLow := t.clkDriveLow, trace := t.trace } := by
  unfold edgeStep
  split
  · obtain ⟨u, hu, fu⟩ := receive_spec d s
    refine ⟨recoverIfError u, by simp [hu], ?_⟩
    rcases recoverIfError_cases u with ⟨-, e⟩ | ⟨-, e⟩ <;> rw [e, fu] <;> simp [recovery, h]
  · exact ⟨s, rfl, rfl⟩

/-! ### The state rule, state by state -/

@[simp] theorem runTranslator_none (s : State) (h : s.handoff = none) : runTranslator s = .next s := by
  simp [runTranslator, h]

/-- The state rule of a state runs its row's instruction; only a good stop bit reaches the translator. -/
theorem receive_eq (d : Bool) (s : State) (h : s.handoff = none) : receive d s =
    if s.rxState = 0#4 then execRxStart d s
    else if s.rxState ≤ 8#4 then .next (takeBit d (s.rxState + 1#4) s)
    else if s.rxState = 9#4 then execRxParity d s
    else if s.rxState = 10#4 then andThen (execRxStop d s) runTranslator
    else if s.rxState = 11#4 then execRxError s
    else execRxUnused s := by
  have next : ∀ t : State, t.handoff = none → andThen (.next t) runTranslator = .next t := fun t ht => by
    simp [ht]
  have bit : ∀ n, (takeBit d n s).handoff = none := fun _ => h
  obtain ⟨st, hst⟩ : ∃ st, s.rxState = st := ⟨_, rfl⟩
  have cases16 : st = 0#4 ∨ st = 1#4 ∨ st = 2#4 ∨ st = 3#4 ∨ st = 4#4 ∨ st = 5#4 ∨ st = 6#4 ∨ st = 7#4 ∨
      st = 8#4 ∨ st = 9#4 ∨ st = 10#4 ∨ st = 11#4 ∨ st = 12#4 ∨ st = 13#4 ∨ st = 14#4 ∨ st = 15#4 := by
    clear hst; revert st; decide
  rw [receive, hst, decodeRx_rxev]
  rcases cases16 with rfl | rfl | rfl | rfl | rfl | rfl | rfl | rfl | rfl | rfl | rfl | rfl | rfl | rfl |
    rfl | rfl
  · simp only [if_true, exec, execRxStart]
    cases d <;> exact next _ h
  · exact next _ (bit _)
  · exact next _ (bit _)
  · exact next _ (bit _)
  · exact next _ (bit _)
  · exact next _ (bit _)
  · exact next _ (bit _)
  · exact next _ (bit _)
  · exact next _ (bit _)
  · simp only [BitVec.reduceEq, BitVec.reduceLE, if_true, if_false, exec, execRxParity]
    split <;> exact next _ h
  · rfl
  · exact next _ h
  · exact next _ h
  · exact next _ h
  · exact next _ h
  · exact next _ h

/-! ### Commands -/

/-- What a command leaves alone at the event level, whatever it is: the model's own inputs, the byte handed
over, the hidden registers, the busy pin, the buffer's entries. -/
def keptByCommands (s t : State) : Prop :=
  t.level = s.level ∧ t.events = s.events ∧ t.cycles = s.cycles ∧ t.handoff = s.handoff ∧ t.cyc = s.cyc ∧
  t.busyPin = s.busyPin ∧ t.buf = s.buf ∧ t.txBusy = s.txBusy

/-- A command instruction completes, or it is LINKTX where the link is forbidden (R50, R112). -/
theorem exec_cmd (i : Instr) (s : State) (h : (encode i).format = .hostCmd) :
    (∃ t, exec i s = .next t ∧ keptByCommands s t) ∨
    ((∃ a f, i = .linktx a f) ∧ linkForbidden s = true ∧ exec i s = .fault .linkWhileKeyboardEnabled) := by
  cases i with
  | linktx a f =>
    simp only [exec, execLinktx]
    by_cases h1 : linkForbidden s = true
    · exact .inr ⟨⟨a, f, rfl⟩, h1, if_pos h1⟩
    · left
      rw [if_neg h1]
      refine ⟨_, rfl, ?_⟩
      split
      · exact ⟨rfl, rfl, rfl, rfl, rfl, rfl, rfl, rfl⟩
      · simp [keptByCommands, shiftEdges_eq]
  | rxread a b =>
    left
    refine ⟨_, rfl, ?_⟩
    split <;> exact ⟨rfl, rfl, rfl, rfl, rfl, rfl, rfl, rfl⟩
  | nop | rxcount | kbdoff | kbdon | linkbusy | status | reservedOp | reservedRsv =>
    exact .inl ⟨_, rfl, rfl, rfl, rfl, rfl, rfl, rfl, rfl, rfl⟩
  | _ => simp [encode, EventWord.format] at h

theorem format_decodeCmd (w : CmdWord) : (encode (decodeCmd w)).format = .hostCmd := by
  simp only [decodeCmd]
  split_ifs <;> rfl

/-- So does every command word. -/
theorem exec_decodeCmd (w : CmdWord) (s : State) :
    (∃ t, exec (decodeCmd w) s = .next t ∧ keptByCommands s t) ∨
    ((∃ a f, decodeCmd w = .linktx a f) ∧ linkForbidden s = true ∧
      exec (decodeCmd w) s = .fault .linkWhileKeyboardEnabled) :=
  exec_cmd _ s (format_decodeCmd w)

/-- A command other than LINKTX, given as an instruction, completes. -/
theorem exec_decodeCmd_next (w : CmdWord) (s : State) (h : ∀ a f, decodeCmd w ≠ .linktx a f) :
    ∃ t, exec (decodeCmd w) s = .next t := by
  rcases exec_decodeCmd w s with ⟨t, ht, -⟩ | ⟨⟨a, f, e⟩, -⟩
  · exact ⟨t, ht⟩
  · exact absurd e (h a f)

/-! ### One step of the event level -/

/-- The step of the event level, by the stimulus at the head of the list. -/
theorem step_event (s : State) (h : s.level = .event) (hh : s.handoff = none) :
    step s = match s.events with
      | [] => .next s
      | e :: es => applyEvent e { s with events := es } := by
  cases he : s.events <;> simp only [step, h, eventStep, hh, he]

/-- A run over a step that completes. -/
theorem run_step (n : Nat) (s t : State) (h : step s = .next t) :
    Host.Core.run core (n + 1) s = Host.Core.run core n t := by
  simp [Host.Core.run, core, h]

/-- The step of an accepted edge (R63). -/
theorem step_edge (s : State) (d : Bool) (es : List Event) (h1 : s.level = .event) (h2 : s.handoff = none)
    (h3 : s.kbdEnabled = true) (h4 : s.events = .edge d :: es) :
    step s = andThen (receive d { s with events := es }) fun t => .next (recoverIfError t) := by
  simp [step, eventStep, h1, h2, h4, applyEvent, edgeStep, h3]

/-- A stimulus that completes leaves the level, the pending inputs and the byte handed over as they were. -/
theorem applyEvent_keeps (e : Event) (s t : State) (hh : s.handoff = none) (h : applyEvent e s = .next t) :
    t.level = s.level ∧ t.events = s.events ∧ t.cycles = s.cycles ∧ t.handoff = none := by
  cases e with
  | edge d =>
    obtain ⟨u, hu, fu⟩ := edgeStep_spec d s hh
    simp only [applyEvent, hu, Host.Outcome.next.injEq] at h
    subst h
    rw [fu]
    exact ⟨rfl, rfl, rfl, hh⟩
  | cmd w =>
    rcases exec_decodeCmd w s with ⟨u, hu, h1, h2, h3, h4, -⟩ | ⟨-, -, hf⟩
    · simp only [applyEvent, hu, Host.Outcome.next.injEq] at h
      subst h
      exact ⟨h1, h2, h3, h4.trans hh⟩
    · simp [applyEvent, hf] at h
  | pin b =>
    simp only [applyEvent, Host.Outcome.next.injEq] at h
    subst h
    exact ⟨rfl, rfl, rfl, hh⟩
  | reset =>
    simp only [applyEvent, Host.Outcome.next.injEq] at h
    subst h
    exact ⟨rfl, rfl, rfl, rfl⟩

end Sys2Proof.Machine
end

