-- ==== Sys2Proof/Laws/Cycle.lean ====
section
/-! SUPPORT. The four parts of a clock cycle, each said once: which registers it may write, and what it does
where the state decides it. -/

namespace Sys2Proof.Machine

/-! ### The command part -/

/-- A cycle without a command only clears `rsp_valid` (R139). -/
theorem cycleCommand_none (p : Config.Timing) (i : CycleIn) (s : State) (h : i.cmdValid = false) :
    cycleCommand p i s = .next { s with cyc := { s.cyc with rspValid := false } } := by
  simp [cycleCommand, cycleCmd, h]

/-- A command other than LINKTX and KBDON has its event-level effect (R139). -/
theorem cycleExec_other (p : Config.Timing) (i : Instr) (s : State)
    (h1 : isLinktx (some i) = false) (h2 : isKbdon (some i) = false) : cycleExec p i s = exec i s := by
  cases i with
  | linktx a f => simp [isLinktx] at h1
  | kbdon a b => simp [isKbdon] at h2
  | _ => rfl

/-- KBDON has its event-level effect while no transmission is in progress (R139, R112). -/
theorem cycleExec_kbdon (p : Config.Timing) (a b : Byte) (s : State) (h : s.txBusy = false) :
    cycleExec p (.kbdon a b) s = exec (.kbdon a b) s := by
  simp [cycleExec, h]

/-- LINKTX starts the sequencer, is refused while it runs, and is the fault while the interface is enabled. -/
theorem linkAccept_cases (p : Config.Timing) (a f : Byte) (s : State) :
    (s.kbdEnabled = true ∧ linkAccept p a f s = .fault .linkWhileKeyboardEnabled) ∨
    (s.kbdEnabled = false ∧ s.txBusy = true ∧ linkAccept p a f s = .next (respond false false 0x00#8 s)) ∨
    (s.kbdEnabled = false ∧ s.txBusy = false ∧ linkAccept p a f s = .next (respond true false 0x00#8
      { s with txBusy := true, linkSr := cat a f,
               cyc := { s.cyc with lkPhase := .shift, lkCount := 0#5, lkDiv := p.shiftDiv } })) := by
  cases h1 : s.kbdEnabled <;> cases h2 : s.txBusy <;> simp [linkAccept, linkForbidden, Config.sharedPins, h1, h2]

/-- The command part for a presented command that completes (R139). -/
theorem cycleCommand_some (p : Config.Timing) (i : CycleIn) (s t : State) (instr : Instr)
    (hc : cycleCmd i = some instr) (ht : cycleExec p instr s = .next t) :
    cycleCommand p i s = .next { t with cyc := { t.cyc with rspValid := true } } := by
  simp [cycleCommand, hc, ht]

/-- LINKTX during a transmission only responds (R59, R141). -/
theorem cycleExec_refused (p : Config.Timing) (a f : Byte) (s : State) (hk : s.kbdEnabled = false)
    (ht : s.txBusy = true) : cycleExec p (.linktx a f) s = .next (respond false false 0x00#8 s) := by
  simp [cycleExec, linkAccept, linkForbidden, hk, ht]

/-- KBDON during a transmission is the fault (R112, R130). -/
theorem cycleExec_kbdon_busy (p : Config.Timing) (a b : Byte) (s : State) (h : s.txBusy = true) :
    cycleExec p (.kbdon a b) s = .fault .linkWhileKeyboardEnabled := by
  simp [cycleExec, Config.sharedPins, h]

/-- What a cycle that polls is made of. -/
theorem polling_iff (i : CycleIn) : polling i = true ↔
    i.rst = false ∧ isLinktx (cycleCmd i) = false ∧ endsService (cycleCmd i) = false := by
  simp [polling, and_assoc]

/-- A polling command completes, and writes nothing but `rd` and the response (R50). -/
theorem exec_polling (i : Instr) (s : State) (hf : (encode i).format = .hostCmd)
    (hl : isLinktx (some i) = false) (he : endsService (some i) = false) : ∃ u, exec i s = .next u ∧
      u = { s with rd := u.rd, rsp := u.rsp, trace := .response u.rsp :: s.trace } ∧
      (isRxread (some i) = false → u.rd = s.rd) := by
  cases i with
  | linktx => simp [isLinktx] at hl
  | kbdoff | kbdon => simp [endsService] at he
  | rxread a b =>
    refine ⟨_, rfl, ?_, by simp [isRxread]⟩
    split <;> rfl
  | nop | rxcount | linkbusy | status | reservedOp | reservedRsv => exact ⟨_, rfl, rfl, fun _ => rfl⟩
  | _ => simp [encode, EventWord.format] at hf

/-! ### The edge service -/

/-- The sample completes and writes nothing but the input side, the clock line, the service registers and the
trace. -/
theorem sampleEdge_spec (p : Config.Timing) (d : Bool) (s : State) (h : s.handoff = none) :
    ∃ t, sampleEdge p d s = .next t ∧
      t = { s with rxState := t.rxState, rxAcc := t.rxAcc, clkDriveLow := t.clkDriveLow, kstate := t.kstate,
                   mods := t.mods, buf := t.buf, wr := t.wr, trace := t.trace,
                   cyc := { s.cyc with svc := t.cyc.svc, svcTimer := t.cyc.svcTimer } } := by
  unfold sampleEdge
  split
  · obtain ⟨u, hu, fu⟩ := receive_spec d s
    refine ⟨afterSample p u, by simp [hu], ?_⟩
    simp only [afterSample]
    split <;> rw [fu] <;> simp only [beginInhibit, h]
  · exact ⟨_, rfl, rfl⟩

/-- The service part completes and writes nothing but the input side, the clock line, the service registers and
the trace. -/
theorem cycleService_spec (p : Config.Timing) (i : CycleIn) (d : Bool) (s : State) (h : s.handoff = none) :
    ∃ t, cycleService p i d s = .next t ∧
      t = { s with rxState := t.rxState, rxAcc := t.rxAcc, edgePending := t.edgePending,
                   clkDriveLow := t.clkDriveLow, kstate := t.kstate,
                   mods := t.mods, buf := t.buf, wr := t.wr, trace := t.trace,
                   cyc := { s.cyc with svc := t.cyc.svc, svcTimer := t.cyc.svcTimer } } := by
  unfold cycleService
  split
  · exact ⟨_, rfl, rfl⟩
  · unfold serviceCycle
    split
    · split <;> exact ⟨_, rfl, rfl⟩
    · split
      · exact ⟨_, rfl, rfl⟩
      · obtain ⟨t, ht, ft⟩ := sampleEdge_spec p d s h
        refine ⟨t, ht, ?_⟩
        rw [ft]
    · split <;> exact ⟨_, rfl, rfl⟩
    · split <;> exact ⟨_, rfl, rfl⟩

/-- Without KBDOFF or KBDON in the cycle the service runs on. -/
theorem serviceEnded_none (i : CycleIn) (s : State) (h : endsService (cycleCmd i) = false) :
    serviceEnded i s = false := by
  simp [serviceEnded, h]

/-! ### The link sequencer -/

/-- The link part writes nothing but the sequencer's registers, its pins, the outputs and the trace (R141). -/
theorem linkCycle_frame (p : Config.Timing) (ph : LkPhase) (s : State) :
    linkCycle p ph s =
      { s with txBusy := (linkCycle p ph s).txBusy, outAddr := (linkCycle p ph s).outAddr,
               outFlags := (linkCycle p ph s).outFlags, trace := (linkCycle p ph s).trace,
               cyc := { s.cyc with lkPhase := (linkCycle p ph s).cyc.lkPhase,
                                   lkCount := (linkCycle p ph s).cyc.lkCount,
                                   lkDiv := (linkCycle p ph s).cyc.lkDiv,
                                   srData := (linkCycle p ph s).cyc.srData,
                                   srClk := (linkCycle p ph s).cyc.srClk,
                                   srLatch := (linkCycle p ph s).cyc.srLatch } } := by
  cases ph
  · rfl
  · simp only [linkCycle, shiftCycle]
    split_ifs <;> rfl
  · simp only [linkCycle, latchCycle]
    split_ifs <;> rfl

@[simp] theorem linkCycle_idle (p : Config.Timing) (s : State) : linkCycle p .idle s = s := rfl

/-! ### Edge detection -/

@[simp] theorem sampleLines_clkSync_zero (i : CycleIn) (c : CycleRegs) :
    (sampleLines i c).clkSync.getLsbD 0 = i.ps2Clk := by
  simp [sampleLines, getElem_cat]

@[simp] theorem sampleLines_clkSync_one (i : CycleIn) (c : CycleRegs) :
    (sampleLines i c).clkSync.getLsbD 1 = c.clkSync.getLsbD 0 := by
  simp [sampleLines, getElem_cat]

@[simp] theorem sampleLines_dataSync_zero (i : CycleIn) (c : CycleRegs) :
    (sampleLines i c).dataSync.getLsbD 0 = i.ps2Data := by
  simp [sampleLines, getElem_cat]

@[simp] theorem sampleLines_dataSync_one (i : CycleIn) (c : CycleRegs) :
    (sampleLines i c).dataSync.getLsbD 1 = c.dataSync.getLsbD 0 := by
  simp [sampleLines, getElem_cat]

@[simp] theorem sampleLines_clkPrev (i : CycleIn) (c : CycleRegs) :
    (sampleLines i c).clkPrev = c.clkSync.getLsbD 1 := rfl

/-- Sampling writes the three sampling registers and nothing else (R135). -/
theorem sampleLines_frame (i : CycleIn) (c : CycleRegs) :
    sampleLines i c = { c with clkSync := (sampleLines i c).clkSync, dataSync := (sampleLines i c).dataSync,
                               clkPrev := (sampleLines i c).clkPrev } := rfl

/-- Latching a fall writes `edge_pending` and nothing else (R135). -/
theorem latchFall_frame (i : CycleIn) (b s : State) :
    latchFall i b s = { s with edgePending := (latchFall i b s).edgePending } := by
  simp only [latchFall]
  split <;> rfl

/-- Nothing is latched while the interface is disabled (R135). -/
theorem latchFall_disabled (i : CycleIn) (b s : State) (h : b.kbdEnabled = false) : latchFall i b s = s := by
  simp [latchFall, h]

/-! ### The whole cycle -/

/-- A cycle whose command part and service part are known. -/
theorem runCycle_eq (p : Config.Timing) (i : CycleIn) (s t u : State) (ht : cycleCommand p i s = .next t)
    (hu : cycleService p i (s.cyc.dataSync.getLsbD 1) t = .next u) :
    runCycle p i s =
      .next { latchFall i s (linkCycle p s.cyc.lkPhase u) with
        cyc := sampleLines i (latchFall i s (linkCycle p s.cyc.lkPhase u)).cyc } := by
  simp only [runCycle, ht, hu, andThen_next]

/-- A cycle that completes has these parts. -/
theorem runCycle_next (p : Config.Timing) (i : CycleIn) (s v : State) (h : runCycle p i s = .next v) :
    ∃ t u, cycleCommand p i s = .next t ∧ cycleService p i (s.cyc.dataSync.getLsbD 1) t = .next u ∧
      v = { latchFall i s (linkCycle p s.cyc.lkPhase u) with
        cyc := sampleLines i (latchFall i s (linkCycle p s.cyc.lkPhase u)).cyc } := by
  simp only [runCycle, andThen_eq_next] at h
  obtain ⟨t, ht, u, hu, h⟩ := h
  simp only [Host.Outcome.next.injEq] at h
  exact ⟨t, u, ht, hu, h.symm⟩

/-- A cycle with `rst = 0` sets the busy pin's level and runs. -/
theorem clockCycle_run (p : Config.Timing) (i : CycleIn) (s : State) (h : i.rst = false) :
    clockCycle p i s = runCycle p i { s with busyPin := i.busy } := by
  simp [clockCycle, h]

/-- A step of the cycle level is one clock cycle on the head of the list (log 1). -/
theorem step_cycle (s : State) (i : CycleIn) (is : List CycleIn) (h : s.level = .cycle) (hc : s.cycles = i :: is) :
    step s = clockCycle Config.timing i { s with cycles := is } := by
  simp only [step, h, cycleStep, hc]

/-! ### Several cycles -/

@[simp] theorem clockRun_nil (p : Config.Timing) (s : State) : clockRun p [] s = .next s := rfl

@[simp] theorem clockRun_cons (p : Config.Timing) (i : CycleIn) (is : List CycleIn) (s : State) :
    clockRun p (i :: is) s = andThen (clockCycle p i s) (clockRun p is) := rfl

/-- A run of cycles in two parts. -/
theorem clockRun_append (p : Config.Timing) (is js : List CycleIn) (s t : State) (h : clockRun p is s = .next t) :
    clockRun p (is ++ js) s = clockRun p js t := by
  induction is generalizing s with
  | nil => cases h; rfl
  | cons i is ih =>
    rw [clockRun_cons] at h
    obtain ⟨u, hu, h⟩ := (andThen_eq_next _ _ _).mp h
    rw [List.cons_append, clockRun_cons, hu]
    exact ih u h

/-! ### The link while the interface is disabled -/

/-- While the interface is disabled and no pulse is in progress the service writes nothing but its own
registers. -/
theorem serviceCycle_disabled (p : Config.Timing) (d : Bool) (s : State) (hk : s.kbdEnabled = false)
    (hs : s.cyc.svc = .idle ∨ s.cyc.svc = .settle) : ∃ t, serviceCycle p d s = .next t ∧
      (t.cyc.svc = .idle ∨ t.cyc.svc = .settle) ∧
      t = { s with edgePending := t.edgePending,
                   cyc := { s.cyc with svc := t.cyc.svc, svcTimer := t.cyc.svcTimer } } := by
  unfold serviceCycle
  rcases hs with hs | hs <;> rw [hs]
  · simp only
    split
    · exact ⟨_, rfl, .inr rfl, rfl⟩
    · exact ⟨_, rfl, .inl hs, rfl⟩
  · simp only [sampleEdge, hk, Bool.false_eq_true, if_false]
    split
    · exact ⟨_, rfl, .inr hs, rfl⟩
    · exact ⟨_, rfl, .inl rfl, rfl⟩

/-- A quiet cycle while the interface is disabled and no pulse is in progress: the link sequencer does its part
on the state before the cycle, and nothing else changes but the sampling, service and response registers and the
busy pin. -/
theorem clockCycle_disabled (p : Config.Timing) (i : CycleIn) (s : State) (hi : quiet i = true)
    (hk : s.kbdEnabled = false) (hs : s.cyc.svc = .idle ∨ s.cyc.svc = .settle) :
    ∃ t l, clockCycle p i s = .next t ∧ l = linkCycle p s.cyc.lkPhase s ∧
      (t.cyc.svc = .idle ∨ t.cyc.svc = .settle) ∧ t.kbdEnabled = false ∧ t.linkSr = s.linkSr ∧
      t.txBusy = l.txBusy ∧ t.outAddr = l.outAddr ∧ t.outFlags = l.outFlags ∧ t.trace = l.trace ∧
      t.cyc.lkPhase = l.cyc.lkPhase ∧ t.cyc.lkCount = l.cyc.lkCount ∧ t.cyc.lkDiv = l.cyc.lkDiv ∧
      t.cyc.srData = l.cyc.srData ∧ t.cyc.srClk = l.cyc.srClk ∧ t.cyc.srLatch = l.cyc.srLatch := by
  simp only [quiet, Bool.and_eq_true, Bool.not_eq_true'] at hi
  have hc : cycleCmd i = none := by simp [cycleCmd, hi.2]
  obtain ⟨u, hu, su, fu⟩ := serviceCycle_disabled p (s.cyc.dataSync.getLsbD 1)
    { s with busyPin := i.busy, cyc := { s.cyc with rspValid := false } } hk hs
  have hse : cycleService p i (s.cyc.dataSync.getLsbD 1)
      { s with busyPin := i.busy, cyc := { s.cyc with rspValid := false } } = .next u := by
    rw [cycleService, serviceEnded_none i _ (by rw [hc]; rfl)]
    exact hu
  have hrun := (clockCycle_run p i s hi.1).trans
    (runCycle_eq p i _ _ u (cycleCommand_none p i _ hi.2) hse)
  refine ⟨_, linkCycle p s.cyc.lkPhase s, hrun, rfl, ?_⟩
  · simp only
    rw [latchFall_disabled _ _ _ (by exact hk)]
    have same : (linkCycle p s.cyc.lkPhase u).txBusy = (linkCycle p s.cyc.lkPhase s).txBusy ∧
        (linkCycle p s.cyc.lkPhase u).outAddr = (linkCycle p s.cyc.lkPhase s).outAddr ∧
        (linkCycle p s.cyc.lkPhase u).outFlags = (linkCycle p s.cyc.lkPhase s).outFlags ∧
        (linkCycle p s.cyc.lkPhase u).trace = (linkCycle p s.cyc.lkPhase s).trace ∧
        (linkCycle p s.cyc.lkPhase u).cyc.lkPhase = (linkCycle p s.cyc.lkPhase s).cyc.lkPhase ∧
        (linkCycle p s.cyc.lkPhase u).cyc.lkCount = (linkCycle p s.cyc.lkPhase s).cyc.lkCount ∧
        (linkCycle p s.cyc.lkPhase u).cyc.lkDiv = (linkCycle p s.cyc.lkPhase s).cyc.lkDiv ∧
        (linkCycle p s.cyc.lkPhase u).cyc.srData = (linkCycle p s.cyc.lkPhase s).cyc.srData ∧
        (linkCycle p s.cyc.lkPhase u).cyc.srClk = (linkCycle p s.cyc.lkPhase s).cyc.srClk ∧
        (linkCycle p s.cyc.lkPhase u).cyc.srLatch = (linkCycle p s.cyc.lkPhase s).cyc.srLatch := by
      rw [fu]
      cases s.cyc.lkPhase
      · exact ⟨rfl, rfl, rfl, rfl, rfl, rfl, rfl, rfl, rfl, rfl⟩
      · simp only [linkCycle, shiftCycle]
        split_ifs <;> exact ⟨rfl, rfl, rfl, rfl, rfl, rfl, rfl, rfl, rfl, rfl⟩
      · simp only [linkCycle, latchCycle]
        split_ifs <;> exact ⟨rfl, rfl, rfl, rfl, rfl, rfl, rfl, rfl, rfl, rfl⟩
    obtain ⟨e1, e2, e3, e4, e5, e6, e7, e8, e9, e10⟩ := same
    refine ⟨?_, ?_, ?_, e1, e2, e3, e4, e5, e6, e7, e8, e9, e10⟩
    · rw [linkCycle_frame]; exact su
    · rw [linkCycle_frame, fu]; exact hk
    · rw [linkCycle_frame, fu]

end Sys2Proof.Machine
end

