-- ==== Sys2Proof/Laws/PerInstr.lean ====
section
/-! SUPPORT. One fact of every instruction, by constructor: its word carries the fixed bits of its own row of
the opcode table. -/

namespace Sys2Proof.Laws.OpcodeRow

/-- The word of `i` has the value of `i`'s row under that row's mask. -/
def Statement (i : Instr) : Prop :=
  ∃ r ∈ opRows (encode i).format, r.mnemonic = i.mnemonic ∧ (encode i).toNat &&& r.mask = r.value

/-! ### Host commands -/

/-- A command word under the mask of `op` and `rsv`. -/
theorem mask_cmdWord (op rsv : BitVec 4) (a b : Byte) :
    (cmdWord op rsv a b).toNat &&& 0xFF0000 = (cat op rsv : Byte).toNat * 65536 := by
  rw [mask_cmd, cmdWord_hi]

theorem nop (a b : Byte) : Statement (.nop a b) :=
  ⟨⟨"NOP", 0xFF0000, 0x000000⟩, (by decide : ⟨"NOP", 0xFF0000, 0x000000⟩ ∈ hostRows), rfl, mask_cmdWord _ _ a b⟩

theorem rxread (a b : Byte) : Statement (.rxread a b) :=
  ⟨⟨"RXREAD", 0xFF0000, 0x100000⟩, (by decide : ⟨"RXREAD", 0xFF0000, 0x100000⟩ ∈ hostRows), rfl, mask_cmdWord _ _ a b⟩

theorem rxcount (a b : Byte) : Statement (.rxcount a b) :=
  ⟨⟨"RXCOUNT", 0xFF0000, 0x200000⟩, (by decide : ⟨"RXCOUNT", 0xFF0000, 0x200000⟩ ∈ hostRows), rfl, mask_cmdWord _ _ a b⟩

theorem kbdoff (a b : Byte) : Statement (.kbdoff a b) :=
  ⟨⟨"KBDOFF", 0xFF0000, 0x300000⟩, (by decide : ⟨"KBDOFF", 0xFF0000, 0x300000⟩ ∈ hostRows), rfl, mask_cmdWord _ _ a b⟩

theorem kbdon (a b : Byte) : Statement (.kbdon a b) :=
  ⟨⟨"KBDON", 0xFF0000, 0x400000⟩, (by decide : ⟨"KBDON", 0xFF0000, 0x400000⟩ ∈ hostRows), rfl, mask_cmdWord _ _ a b⟩

theorem linktx (a b : Byte) : Statement (.linktx a b) :=
  ⟨⟨"LINKTX", 0xFF0000, 0x500000⟩, (by decide : ⟨"LINKTX", 0xFF0000, 0x500000⟩ ∈ hostRows), rfl, mask_cmdWord _ _ a b⟩

theorem linkbusy (a b : Byte) : Statement (.linkbusy a b) :=
  ⟨⟨"LINKBUSY", 0xFF0000, 0x600000⟩, (by decide : ⟨"LINKBUSY", 0xFF0000, 0x600000⟩ ∈ hostRows), rfl, mask_cmdWord _ _ a b⟩

theorem status (a b : Byte) : Statement (.status a b) :=
  ⟨⟨"STATUS", 0xFF0000, 0x700000⟩, (by decide : ⟨"STATUS", 0xFF0000, 0x700000⟩ ∈ hostRows), rfl, mask_cmdWord _ _ a b⟩

theorem reservedOp (op : BitVec 3) (rsv : BitVec 4) (a b : Byte) : Statement (.reservedOp op rsv a b) := by
  refine ⟨⟨"RESERVED_OP", 0x800000, 0x800000⟩, (by decide : ⟨"RESERVED_OP", 0x800000, 0x800000⟩ ∈ hostRows), rfl, ?_⟩
  have h : (cat 1#1 op : BitVec 4).getLsbD 3 = true := by revert op; decide
  simp only [encode, EventWord.toNat, mask_top, cmdWord_top, h, if_true]

theorem reservedRsv (op : BitVec 3) (rsv : BitVec 4) (a b : Byte) : Statement (.reservedRsv op rsv a b) := by
  refine ⟨⟨"RESERVED_RSV", 0x800000, 0x000000⟩, (by decide : ⟨"RESERVED_RSV", 0x800000, 0x000000⟩ ∈ hostRows), rfl, ?_⟩
  have h : (cat 0#1 op : BitVec 4).getLsbD 3 = false := by revert op; decide
  simp only [encode, EventWord.toNat, mask_top, cmdWord_top, h, Bool.false_eq_true, if_false]

/-! ### Receiver events -/

theorem rxStart (d : Bool) : Statement (.rxStart d) :=
  ⟨⟨"RX_START", 0x1E, 0x00⟩, (by decide : ⟨"RX_START", 0x1E, 0x00⟩ ∈ rxRows), rfl, by cases d <;> rfl⟩

theorem rxBit0 (d : Bool) : Statement (.rxBit0 d) :=
  ⟨⟨"RX_BIT0", 0x1E, 0x02⟩, (by decide : ⟨"RX_BIT0", 0x1E, 0x02⟩ ∈ rxRows), rfl, by cases d <;> rfl⟩

theorem rxBit1 (d : Bool) : Statement (.rxBit1 d) :=
  ⟨⟨"RX_BIT1", 0x1E, 0x04⟩, (by decide : ⟨"RX_BIT1", 0x1E, 0x04⟩ ∈ rxRows), rfl, by cases d <;> rfl⟩

theorem rxBit2 (d : Bool) : Statement (.rxBit2 d) :=
  ⟨⟨"RX_BIT2", 0x1E, 0x06⟩, (by decide : ⟨"RX_BIT2", 0x1E, 0x06⟩ ∈ rxRows), rfl, by cases d <;> rfl⟩

theorem rxBit3 (d : Bool) : Statement (.rxBit3 d) :=
  ⟨⟨"RX_BIT3", 0x1E, 0x08⟩, (by decide : ⟨"RX_BIT3", 0x1E, 0x08⟩ ∈ rxRows), rfl, by cases d <;> rfl⟩

theorem rxBit4 (d : Bool) : Statement (.rxBit4 d) :=
  ⟨⟨"RX_BIT4", 0x1E, 0x0A⟩, (by decide : ⟨"RX_BIT4", 0x1E, 0x0A⟩ ∈ rxRows), rfl, by cases d <;> rfl⟩

theorem rxBit5 (d : Bool) : Statement (.rxBit5 d) :=
  ⟨⟨"RX_BIT5", 0x1E, 0x0C⟩, (by decide : ⟨"RX_BIT5", 0x1E, 0x0C⟩ ∈ rxRows), rfl, by cases d <;> rfl⟩

theorem rxBit6 (d : Bool) : Statement (.rxBit6 d) :=
  ⟨⟨"RX_BIT6", 0x1E, 0x0E⟩, (by decide : ⟨"RX_BIT6", 0x1E, 0x0E⟩ ∈ rxRows), rfl, by cases d <;> rfl⟩

theorem rxBit7 (d : Bool) : Statement (.rxBit7 d) :=
  ⟨⟨"RX_BIT7", 0x1E, 0x10⟩, (by decide : ⟨"RX_BIT7", 0x1E, 0x10⟩ ∈ rxRows), rfl, by cases d <;> rfl⟩

theorem rxParity (d : Bool) : Statement (.rxParity d) :=
  ⟨⟨"RX_PARITY", 0x1E, 0x12⟩, (by decide : ⟨"RX_PARITY", 0x1E, 0x12⟩ ∈ rxRows), rfl, by cases d <;> rfl⟩

theorem rxStop (d : Bool) : Statement (.rxStop d) :=
  ⟨⟨"RX_STOP", 0x1E, 0x14⟩, (by decide : ⟨"RX_STOP", 0x1E, 0x14⟩ ∈ rxRows), rfl, by cases d <;> rfl⟩

theorem rxError (d : Bool) : Statement (.rxError d) :=
  ⟨⟨"RX_ERROR", 0x1E, 0x16⟩, (by decide : ⟨"RX_ERROR", 0x1E, 0x16⟩ ∈ rxRows), rfl, by cases d <;> rfl⟩

theorem rxUnused (low : BitVec 2) (d : Bool) : Statement (.rxUnused low d) :=
  ⟨⟨"RX_UNUSED", 0x18, 0x18⟩, (by decide : ⟨"RX_UNUSED", 0x18, 0x18⟩ ∈ rxRows), rfl, by revert low d; decide⟩

/-! ### Translator events -/

/-- A translator event word under the mask of `kstate`. -/
theorem mask_trev (ks : BitVec 2) (b : Byte) : (trev ks b).toNat &&& 0x300 = ks.toNat * 256 := by
  rw [mask_tr, trev_kstate]

theorem trNormalF0 : Statement .trNormalF0 := ⟨⟨"TR_NORMAL_F0", 0x3FF, 0x0F0⟩, (by decide : ⟨"TR_NORMAL_F0", 0x3FF, 0x0F0⟩ ∈ trRows), rfl, rfl⟩

theorem trNormalE0 : Statement .trNormalE0 := ⟨⟨"TR_NORMAL_E0", 0x3FF, 0x0E0⟩, (by decide : ⟨"TR_NORMAL_E0", 0x3FF, 0x0E0⟩ ∈ trRows), rfl, rfl⟩

theorem trNormalOther (b : Byte) : Statement (.trNormalOther b) :=
  ⟨⟨"TR_NORMAL_OTHER", 0x300, 0x000⟩, (by decide : ⟨"TR_NORMAL_OTHER", 0x300, 0x000⟩ ∈ trRows), rfl, mask_trev _ b⟩

theorem trBreak (b : Byte) : Statement (.trBreak b) :=
  ⟨⟨"TR_BREAK", 0x300, 0x100⟩, (by decide : ⟨"TR_BREAK", 0x300, 0x100⟩ ∈ trRows), rfl, mask_trev _ b⟩

theorem trExtF0 : Statement .trExtF0 := ⟨⟨"TR_EXT_F0", 0x3FF, 0x2F0⟩, (by decide : ⟨"TR_EXT_F0", 0x3FF, 0x2F0⟩ ∈ trRows), rfl, rfl⟩

theorem trExtOther (b : Byte) : Statement (.trExtOther b) :=
  ⟨⟨"TR_EXT_OTHER", 0x300, 0x200⟩, (by decide : ⟨"TR_EXT_OTHER", 0x300, 0x200⟩ ∈ trRows), rfl, mask_trev _ b⟩

theorem trExtbreak (b : Byte) : Statement (.trExtbreak b) :=
  ⟨⟨"TR_EXTBREAK", 0x300, 0x300⟩, (by decide : ⟨"TR_EXTBREAK", 0x300, 0x300⟩ ∈ trRows), rfl, mask_trev _ b⟩

end Sys2Proof.Laws.OpcodeRow
end

