-- ==== Sys2Proof/Tests/Slice0.lean ====
section
/-! SUPPORT. The model's own tests: ill-formed terms are refused, words written out from the spec's encodings decode,
single steps give what the vectors of 95_test_vectors.md say, and every statement's hypotheses are met by a concrete
state. Vector names (V-..) are those of that file. -/

namespace Sys2Proof.Machine

/-! ### WellFormed refuses ill-formed terms (R46, R51) -/

theorem test_wf_rsv_zero : (Instr.reservedRsv 5#3 0#4 0x00#8 0x00#8).wf = false := by decide
theorem test_wf_rsv_one : (Instr.reservedRsv 5#3 1#4 0x00#8 0x00#8).wf = true := by decide
theorem test_wf_normal_break_prefix : (Instr.trNormalOther 0xF0#8).wf = false := by decide
theorem test_wf_normal_ext_prefix : (Instr.trNormalOther 0xE0#8).wf = false := by decide
theorem test_wf_ext_break_prefix : (Instr.trExtOther 0xF0#8).wf = false := by decide
theorem test_wf_ext_ext_prefix : (Instr.trExtOther 0xE0#8).wf = true := by decide

/-! ### Decoding: words written out from the encodings of 30_encoding.md -/

-- `op[23:20] rsv[19:16] A[15:8] B[7:0]` (R48, R49, R51)
theorem test_decode_nop : decodeCmd 0b000000001010101111001101#24 = .nop 0xAB#8 0xCD#8 := by decide
theorem test_decode_rxread : decodeCmd 0b000100000000000000000001#24 = .rxread 0x00#8 0x01#8 := by decide
theorem test_decode_rxcount : decodeCmd 0b001000001000000000000000#24 = .rxcount 0x80#8 0x00#8 := by decide
theorem test_decode_kbdoff : decodeCmd 0b001100000000000000000000#24 = .kbdoff 0x00#8 0x00#8 := by decide
theorem test_decode_kbdon : decodeCmd 0b010000000000000000000000#24 = .kbdon 0x00#8 0x00#8 := by decide
theorem test_decode_linktx : decodeCmd 0b010100000100000100000101#24 = .linktx 0x41#8 0x05#8 := by decide
theorem test_decode_linkbusy : decodeCmd 0b011000000000000000000000#24 = .linkbusy 0x00#8 0x00#8 := by decide
theorem test_decode_status : decodeCmd 0b011100000000000011111111#24 = .status 0x00#8 0xFF#8 := by decide
theorem test_decode_reserved_op :
    decodeCmd 0b100000000000000000000000#24 = .reservedOp 0#3 0#4 0x00#8 0x00#8 ∧
    decodeCmd 0b111100011000000000000001#24 = .reservedOp 7#3 1#4 0x80#8 0x01#8 := by decide
theorem test_decode_reserved_rsv :
    decodeCmd 0b010100010000000000000000#24 = .reservedRsv 5#3 1#4 0x00#8 0x00#8 ∧
    decodeCmd 0b000110001111111111111111#24 = .reservedRsv 1#3 8#4 0xFF#8 0xFF#8 := by decide

-- `rx_state[4:1] d[0]` (R44)
theorem test_decode_rx_start : decodeRx 0b00001#5 = .rxStart true := by decide
theorem test_decode_rx_bit0 : decodeRx 0b00010#5 = .rxBit0 false := by decide
theorem test_decode_rx_bit1 : decodeRx 0b00101#5 = .rxBit1 true := by decide
theorem test_decode_rx_bit2 : decodeRx 0b00110#5 = .rxBit2 false := by decide
theorem test_decode_rx_bit3 : decodeRx 0b01001#5 = .rxBit3 true := by decide
theorem test_decode_rx_bit4 : decodeRx 0b01010#5 = .rxBit4 false := by decide
theorem test_decode_rx_bit5 : decodeRx 0b01101#5 = .rxBit5 true := by decide
theorem test_decode_rx_bit6 : decodeRx 0b01110#5 = .rxBit6 false := by decide
theorem test_decode_rx_bit7 : decodeRx 0b10001#5 = .rxBit7 true := by decide
theorem test_decode_rx_parity : decodeRx 0b10010#5 = .rxParity false := by decide
theorem test_decode_rx_stop : decodeRx 0b10101#5 = .rxStop true := by decide
theorem test_decode_rx_error : decodeRx 0b10110#5 = .rxError false := by decide
theorem test_decode_rx_unused :
    decodeRx 0b11000#5 = .rxUnused 0#2 false ∧ decodeRx 0b11111#5 = .rxUnused 3#2 true := by decide

-- `kstate[9:8] byte[7:0]` (R46)
theorem test_decode_tr_normal_f0 : decodeTr 0b0011110000#10 = .trNormalF0 := by decide
theorem test_decode_tr_normal_e0 : decodeTr 0b0011100000#10 = .trNormalE0 := by decide
theorem test_decode_tr_normal_other : decodeTr 0b0000011100#10 = .trNormalOther 0x1C#8 := by decide
theorem test_decode_tr_break :
    decodeTr 0b0100010010#10 = .trBreak 0x12#8 ∧ decodeTr 0b0111110000#10 = .trBreak 0xF0#8 := by decide
theorem test_decode_tr_ext_f0 : decodeTr 0b1011110000#10 = .trExtF0 := by decide
theorem test_decode_tr_ext_other : decodeTr 0b1011100000#10 = .trExtOther 0xE0#8 := by decide
theorem test_decode_tr_extbreak : decodeTr 0b1100010100#10 = .trExtbreak 0x14#8 := by decide

-- bytes, least significant first (log 12)
theorem test_decode_bytes :
    decodeBytes .hostCmd [0x05#8, 0x41#8, 0x50#8, 0xAA#8] = .ok (.linktx 0x41#8 0x05#8, [0xAA#8]) ∧
    decodeBytes .trEvent [0xF0#8, 0x02#8] = .ok (.trExtF0, []) ∧
    decodeBytes .hostCmd [0x00#8, 0x00#8] = .error .tooShort ∧
    decodeBytes .rxEvent [0x20#8] = .error .strayBits := by decide

/-! ### Single steps -/

/-- The outcome is a next state of which `f` holds. -/
def next? (o : Res) (f : State → Bool) : Bool :=
  match o with
  | .next t => f t
  | .fault _ => false
  | .refused _ => false

/-- The reset state with some receiver and translator registers set. -/
def rxAt (st : BitVec 4) (acc : Byte) : State := { State.reset with rxState := st, rxAcc := acc }
def trAt (ks : BitVec 2) (mods : Byte) : State := { State.reset with kstate := ks, mods := mods }

/-- The reset state with the keyboard interface disabled, as KBDOFF leaves it (R97). -/
def disabled : State := { State.reset with kbdEnabled := false, clkDriveLow := true }

/-- The reset state with some buffer cursors. -/
def bufAt (wr rd : Cursor) : State := { State.reset with wr := wr, rd := rd }

-- V-CT-9, V-CT-10
theorem test_nop : next? (exec (.nop 0xAB#8 0xCD#8) State.reset) fun t => t.rsp == 0x100#10 := by decide
-- V-BUF-1; V-BUF-3's wrap of the read cursor at index 7
theorem test_rxread_empty :
    next? (exec (.rxread 0#8 0#8) State.reset) fun t => t.rsp == 0x000#10 && t.rd == 0#3 := by decide
theorem test_rxread_wraps :
    next? (exec (.rxread 0#8 0#8) { push 0x61#8 (bufAt 7#3 7#3) with mods := 0x01#8 }) fun t =>
      t.rsp == 0x161#10 && t.rd == 0#3 && t.wr == 0#3 && t.mods == 0x01#8 := by decide
-- V-BUF-2, V-BUF-11
theorem test_rxcount_empty : next? (exec (.rxcount 0#8 0#8) State.reset) fun t => t.rsp == 0x100#10 := by decide
theorem test_rxcount_wrapped :
    next? (exec (.rxcount 0#8 0#8) (bufAt 1#3 6#3)) fun t => t.rsp == 0x103#10 := by decide
-- V-CT-2
theorem test_kbdoff : next? (exec (.kbdoff 0#8 0#8) State.reset) fun t =>
    t.rsp == 0x100#10 && t.clkDriveLow && !t.kbdEnabled := by decide
-- V-CT-5
theorem test_kbdon : next? (exec (.kbdon 0#8 0#8)
    { disabled with rxState := 4#4, mods := 0x01#8, wr := 3#3, rd := 1#3 }) fun t =>
    t.rsp == 0x100#10 && t.rxState == 0#4 && t.mods == 0x00#8 && t.wr == 0#3 && t.rd == 0#3 &&
    t.kbdEnabled && !t.clkDriveLow := by decide
-- V-LK-1, V-LK-3
theorem test_linktx : next? (exec (.linktx 0x41#8 0x05#8) disabled) fun t =>
    t.rsp == 0x100#10 && t.outAddr == 0x41#8 && t.outFlags == 0x05#8 && t.linkSr == 0x4105#16 := by decide
theorem test_linktx_enabled :
    exec (.linktx 0x41#8 0x05#8) State.reset = .fault .linkWhileKeyboardEnabled := by rfl
-- V-LK-2: the sixteen bits on the wire
theorem test_link_bits : linkBits 0x41#8 0x05#8 =
    [false, true, false, false, false, false, false, true,
     false, false, false, false, false, true, false, true] := by decide
-- V-LK-4, V-LK-5
theorem test_linkbusy_busy :
    next? (exec (.linkbusy 0#8 0#8) { State.reset with busyPin := true }) fun t => t.rsp == 0x101#10 := by decide
theorem test_linkbusy_free : next? (exec (.linkbusy 0#8 0#8) State.reset) fun t => t.rsp == 0x100#10 := by decide
-- V-CT-1; V-LK-9 (cycle 1)
theorem test_status_enabled : next? (exec (.status 0#8 0#8) State.reset) fun t => t.rsp == 0x102#10 := by decide
theorem test_status_busy :
    next? (exec (.status 0#8 0#8) { disabled with txBusy := true }) fun t => t.rsp == 0x101#10 := by decide
-- V-CT-12, V-CT-13
theorem test_reserved_op : next? (exec (decodeCmd 0xF00000#24) State.reset) fun t => t.rsp == 0x200#10 := by decide
theorem test_reserved_rsv : next? (exec (decodeCmd 0x510000#24) State.reset) fun t =>
    t.rsp == 0x200#10 && t.outAddr == 0x00#8 := by decide

-- R64's example
theorem test_rx_start_good : next? (exec (.rxStart false) (rxAt 0#4 0xFF#8)) fun t =>
    t.rxState == 1#4 && t.rxAcc == 0x00#8 := by decide
theorem test_rx_start_bad : next? (exec (.rxStart true) (rxAt 0#4 0xFF#8)) fun t =>
    t.rxState == 11#4 && t.rxAcc == 0xFF#8 := by decide
-- V-RX-T, edges 2 to 9
theorem test_rx_bit0 : next? (exec (.rxBit0 false) (rxAt 1#4 0x00#8)) fun t =>
    t.rxState == 2#4 && t.rxAcc == 0x00#8 := by decide
theorem test_rx_bit1 : next? (exec (.rxBit1 false) (rxAt 2#4 0x00#8)) fun t =>
    t.rxState == 3#4 && t.rxAcc == 0x00#8 := by decide
theorem test_rx_bit2 : next? (exec (.rxBit2 true) (rxAt 3#4 0x00#8)) fun t =>
    t.rxState == 4#4 && t.rxAcc == 0x80#8 := by decide
theorem test_rx_bit3 : next? (exec (.rxBit3 true) (rxAt 4#4 0x80#8)) fun t =>
    t.rxState == 5#4 && t.rxAcc == 0xC0#8 := by decide
theorem test_rx_bit4 : next? (exec (.rxBit4 true) (rxAt 5#4 0xC0#8)) fun t =>
    t.rxState == 6#4 && t.rxAcc == 0xE0#8 := by decide
theorem test_rx_bit5 : next? (exec (.rxBit5 false) (rxAt 6#4 0xE0#8)) fun t =>
    t.rxState == 7#4 && t.rxAcc == 0x70#8 := by decide
theorem test_rx_bit6 : next? (exec (.rxBit6 false) (rxAt 7#4 0x70#8)) fun t =>
    t.rxState == 8#4 && t.rxAcc == 0x38#8 := by decide
theorem test_rx_bit7 : next? (exec (.rxBit7 false) (rxAt 8#4 0x38#8)) fun t =>
    t.rxState == 9#4 && t.rxAcc == 0x1C#8 := by decide
-- V-RX-T, edge 10; V-RX-6
theorem test_rx_parity_good : next? (exec (.rxParity false) (rxAt 9#4 0x1C#8)) fun t =>
    t.rxState == 10#4 && t.rxAcc == 0x1C#8 := by decide
theorem test_rx_parity_bad : next? (exec (.rxParity true) (rxAt 9#4 0x1C#8)) fun t => t.rxState == 11#4 := by decide
-- V-RX-T, edge 11; V-RX-8
theorem test_rx_stop_good : next? (exec (.rxStop true) (rxAt 10#4 0x1C#8)) fun t =>
    t.rxState == 0#4 && t.handoff == some 0x1C#8 := by decide
theorem test_rx_stop_bad : next? (exec (.rxStop false) (rxAt 10#4 0x1C#8)) fun t =>
    t.rxState == 11#4 && t.handoff == none := by decide
-- V-RX-13, V-RX-14: the whole step, with the recovery
theorem test_rx_error_recovers : next? (edgeStep false (rxAt 11#4 0x00#8)) fun t =>
    t.rxState == 0#4 && t.trace == [.inhibitPulse, .framingError .state] := by decide
theorem test_rx_unused_recovers : next? (edgeStep true (rxAt 13#4 0x00#8)) fun t =>
    t.rxState == 0#4 && t.trace == [.inhibitPulse, .framingError .state] := by decide

-- V-TR-35, V-TR-36, V-TR-37
theorem test_tr_normal_f0 : next? (exec .trNormalF0 (trAt 0#2 0#8)) fun t => t.kstate == 1#2 := by decide
theorem test_tr_normal_e0 : next? (exec .trNormalE0 (trAt 0#2 0#8)) fun t => t.kstate == 2#2 := by decide
theorem test_tr_ext_f0 : next? (exec .trExtF0 (trAt 2#2 0#8)) fun t => t.kstate == 3#2 := by decide
-- V-TR-2, V-TR-15
theorem test_tr_normal_shifted : next? (exec (.trNormalOther 0x1C#8) (trAt 0#2 0x01#8)) fun t =>
    bufRead t.buf 0#3 == 0x41#8 && t.wr == 1#3 && t.mods == 0x01#8 := by decide
theorem test_tr_normal_escape : next? (exec (.trNormalOther 0x76#8)
    { bufAt 7#3 2#3 with buf := Vector.replicate 8 0xFF#8 }) fun t =>
    bufRead t.buf 7#3 == 0x00#8 && t.wr == 0#3 && t.mods == 0x00#8 := by decide
-- V-TR-33, V-TR-30
theorem test_tr_break : next? (exec (.trBreak 0x11#8) (trAt 1#2 0x11#8)) fun t =>
    t.kstate == 0#2 && t.mods == 0x01#8 := by decide
theorem test_tr_break_e0 : next? (exec (.trBreak 0xE0#8) (trAt 1#2 0xFF#8)) fun t =>
    t.kstate == 0#2 && t.mods == 0xFF#8 && t.wr == 0#3 := by decide
-- V-TR-10, V-TR-21
theorem test_tr_ext_other : next? (exec (.trExtOther 0x14#8) (trAt 2#2 0x00#8)) fun t =>
    t.kstate == 0#2 && t.mods == 0x08#8 && t.wr == 0#3 := by decide
theorem test_tr_ext_fake_shift : next? (exec (.trExtOther 0x12#8) (trAt 2#2 0x00#8)) fun t =>
    t.kstate == 0#2 && t.mods == 0x00#8 := by decide
-- V-TR-11, V-TR-22
theorem test_tr_extbreak : next? (exec (.trExtbreak 0x14#8) (trAt 3#2 0x0C#8)) fun t =>
    t.kstate == 0#2 && t.mods == 0x04#8 := by decide
theorem test_tr_extbreak_fake_shift : next? (exec (.trExtbreak 0x12#8) (trAt 3#2 0x01#8)) fun t =>
    t.kstate == 0#2 && t.mods == 0x01#8 := by decide

-- V-RX-P: the edge strings of 0x1C and 0xE0
theorem test_frame_1c : frame 0x1C#8 =
    [false, false, false, true, true, true, false, false, false, false, true].map .edge := by decide
theorem test_frame_e0 : frame 0xE0#8 =
    [false, false, false, false, false, false, true, true, true, false, true].map .edge := by decide
-- V-RX-15
theorem test_edge_disabled : edgeStep true disabled = .next disabled := by rfl
-- a placed word runs as the first instruction after reset (log 13)
theorem test_placed_status : next? (step (State.reset.withFetchWord 24 0x700000)) fun t => t.rsp == 0x102#10 := by
  decide
theorem test_placed_rx : next? (step (State.reset.withFetchWord 8 0b01001)) fun t =>
    t.rxState == 5#4 && t.rxAcc == 0x80#8 := by decide
theorem test_placed_tr : next? (step (State.reset.withFetchWord 16 0x114)) fun t => t.kstate == 0#2 := by decide

/-! ### Single cycles -/

def tim : Config.Timing := ⟨1, 1, 3, 1⟩

/-- A cycle with both lines at the given levels and nothing else. -/
def lines (clk data : Bool) : CycleIn :=
  { rst := false, ps2Clk := clk, ps2Data := data, busy := false, cmdValid := false, cmd := 0x000000#24 }

/-- A cycle with a command and idle lines. -/
def withCmd (w : CmdWord) : CycleIn := { lines true true with cmdValid := true, cmd := w }

-- R135: a fall sets edge_pending
theorem test_cycle_fall : next? (clockCycle tim (lines false true)
    { State.cycleReset with cyc := { CycleRegs.reset with clkSync := 0b00#2 } }) fun t =>
    t.edgePending && !t.cyc.clkPrev := by decide
-- R136, R138: a start error at the sample begins the pulse
theorem test_cycle_inhibit : next? (clockCycle tim (lines true true)
    { State.cycleReset with cyc := { CycleRegs.reset with svc := .settle } }) fun t =>
    t.cyc.svc == .inhibit && t.rxState == 11#4 && t.clkDriveLow && t.cyc.svcTimer == 1 := by decide
-- V-LK-9: the acceptance
theorem test_cycle_linktx : next? (clockCycle tim (withCmd 0x504105#24)
    { disabled with level := .cycle }) fun t =>
    t.txBusy && t.cyc.rspValid && t.rsp == 0x100#10 && t.outAddr == 0x00#8 && t.linkSr == 0x4105#16 := by decide
-- R130: KBDON during a transmission
theorem test_cycle_kbdon_busy : clockCycle tim (withCmd 0x400000#24)
    { disabled with level := .cycle, txBusy := true, cyc := { CycleRegs.reset with lkPhase := .shift } } =
    .fault .linkWhileKeyboardEnabled := by rfl

/-! ### The LCD client (host software) -/

-- V-LCD-1, V-LCD-5
theorem test_lcd_write : (lcdWrite 0x48#8 flagRS).map (fun o => (Client.start [o]).command) =
    [some 0x504805#24, some 0x504804#24] := by decide
theorem test_lcd_glyph_out_of_range (f : Nat → Byte) (base : Nat) (rows : Vector Byte 8) :
    setCustomGlyph f base 16 rows = [] := rfl

/-! ### Witnesses: the hypotheses of every statement that has some are met, clause by clause -/

/-- The reset state with given stimuli. -/
def withEvents (es : List Event) : State := { State.reset with events := es }

theorem witness_ResetInputRestoresRegisters :
    ((withEvents [.reset]).level = .event ∧ (withEvents [.reset]).handoff = none ∧
      (withEvents [.reset]).events = .reset :: []) ∧
    (({ State.cycleReset with cycles := [{ lines true true with rst := true }] } : State).level = .cycle ∧
      ({ lines true true with rst := true } : CycleIn).rst = true) := by decide

theorem witness_StepRunsDecodedCommand :
    (withEvents [.cmd 0x700000#24]).level = .event ∧ (withEvents [.cmd 0x700000#24]).handoff = none ∧
    (withEvents [.cmd 0x700000#24]).events = .cmd 0x700000#24 :: [] := by decide

theorem witness_StepRunsDecodedEdge :
    (withEvents [.edge false]).level = .event ∧ (withEvents [.edge false]).handoff = none ∧
    (withEvents [.edge false]).kbdEnabled = true ∧ (withEvents [.edge false]).events = .edge false :: [] := by decide

theorem witness_StepRunsDecodedTranslatorByte :
    ({ State.reset with handoff := some 0x1C#8 } : State).level = .event ∧
    ({ State.reset with handoff := some 0x1C#8 } : State).handoff = some 0x1C#8 := by decide

theorem witness_DecodeOfEncode : (Instr.reservedRsv 7#3 15#4 0xFF#8 0xFF#8).wf = true := by decide
theorem witness_BytesReadBack : (Instr.trExtOther 0xE0#8).wf = true := by decide

theorem witness_StrayBitsRejected :
    (32 ≤ 32 ∧ 32 < 256) ∧ (32 ≤ 255 ∧ 255 < 256) ∧ (1024 ≤ 1024 ∧ 1024 < 65536) ∧
    (1024 ≤ 65535 ∧ 65535 < 65536) := by decide

theorem witness_RxreadReturnsOldestEntry :
    (bufAt 7#3 7#3).wr = (bufAt 7#3 7#3).rd ∧ (bufAt 0#3 7#3).wr ≠ (bufAt 0#3 7#3).rd := by decide

theorem witness_LinktxShiftsAndLatches : disabled.kbdEnabled = false ∧ disabled.txBusy = false := by decide

theorem witness_LinktxFaultOrRefusal :
    State.reset.kbdEnabled = true ∧ ({ disabled with txBusy := true } : State).kbdEnabled = false ∧
    ({ disabled with txBusy := true } : State).txBusy = true := by decide

theorem witness_LinkbusyReturnsPin :
    ({ State.reset with busyPin := true } : State).busyPin = true ∧ State.reset.busyPin = false := by decide

theorem witness_IllegalWordsAnswerErr :
    (0x800000#24).getLsbD 23 = true ∧ (0x010000#24).extractLsb' 16 4 ≠ 0#4 ∧
    (0x0F0000#24).extractLsb' 16 4 ≠ 0#4 := by decide

theorem witness_UnusedOperandsIgnored : (0#4 < 8#4 ∧ 0#4 ≠ 5#4) ∧ (7#4 < 8#4 ∧ 7#4 ≠ 5#4) := by decide

theorem witness_ParityRule :
    (popcount (rxAt 9#4 0x00#8).rxAcc + true.toNat) % 2 = 1 ∧
    (popcount (rxAt 9#4 0xFF#8).rxAcc + false.toNat) % 2 = 0 := by decide

/-- Every clause of the case distinction, the last one at both ends of its range. -/
theorem witness_FramingErrorRecoversInOneStep :
    (let s := { rxAt 0#4 0#8 with events := [.edge true] }
     s.level = .event ∧ s.handoff = none ∧ s.kbdEnabled = true ∧ s.events = .edge true :: [] ∧ s.rxState = 0#4) ∧
    (let s := { rxAt 9#4 0x1C#8 with events := [.edge true] }
     s.events = .edge true :: [] ∧ s.rxState = 9#4 ∧ (popcount s.rxAcc + true.toNat) % 2 = 0) ∧
    (let s := { rxAt 10#4 0x1C#8 with events := [.edge false] }
     s.events = .edge false :: [] ∧ s.rxState = 10#4) ∧
    11#4 ≤ (rxAt 11#4 0#8).rxState ∧ 11#4 ≤ (rxAt 15#4 0#8).rxState := by decide

theorem witness_EdgesWhileDisabledDoNothing :
    (let s := { disabled with events := [Event.edge true, Event.edge false] }
     s.level = .event ∧ s.handoff = none ∧ s.kbdEnabled = false ∧
     s.events = [true, false].map .edge ++ []) := by decide

theorem witness_ValidFrameDeliversItsByte :
    (let s := withEvents (frame 0x1C#8)
     s.level = .event ∧ s.handoff = none ∧ s.kbdEnabled = true ∧ s.rxState = 0#4 ∧
     s.events = frame 0x1C#8 ++ []) := by decide

/-- One state for each clause. -/
theorem witness_MalformedFrameIsRejected :
    (State.reset.level = .event ∧ State.reset.handoff = none ∧ State.reset.kbdEnabled = true ∧
      State.reset.rxState = 0#4) ∧
    (withEvents [.edge true]).events = .edge true :: [] ∧
    (true ≠ goodParity 0x1C#8 ∧
      (withEvents (frameX 0x1C#8 false true true)).events = frameX 0x1C#8 false true true ++ []) ∧
    (withEvents (badParity 0x1C#8)).events = badParity 0x1C#8 ++ [] ∧
    (withEvents (frameX 0x1C#8 false (goodParity 0x1C#8) false)).events =
      frameX 0x1C#8 false (goodParity 0x1C#8) false ++ [] := by decide

/-- A character; no character at the last and the first modifier code and at the first code past the table;
Escape. -/
theorem witness_NormalByteRule :
    lookup (trAt 0#2 0x01#8).mods 0x1C#8 = some 0x41#8 ∧
    (lookup (trAt 0#2 0x01#8).mods 0x59#8 = none ∧ 0x59#8 ≠ 0x76#8) ∧
    (lookup (trAt 0#2 0x01#8).mods 0x11#8 = none ∧ 0x11#8 ≠ 0x76#8) ∧
    (lookup (trAt 0#2 0x01#8).mods 0x60#8 = none ∧ 0x60#8 ≠ 0x76#8) := by decide

theorem witness_LookupFollowsTables :
    96 ≤ (0x60#8).toNat ∧ 96 ≤ (0xFF#8).toNat ∧ 0x59#8 ∈ [0x11#8, 0x12#8, 0x14#8, 0x59#8] ∧
    ((0x03#8).getLsbD 0 || (0x03#8).getLsbD 1) = ((0xFE#8).getLsbD 0 || (0xFE#8).getLsbD 1) ∧
    lookup 0x00#8 0x1C#8 = some 0x61#8 ∧
    (∃ h : (0x1C#8).toNat < 96, tableRead .unshifted ⟨(0x1C#8).toNat, h⟩ ≠ 0x00#8) ∧
    (∃ h : (0x59#8).toNat < 96, tableRead .shifted ⟨(0x59#8).toNat, h⟩ = 0x00#8) := by decide

theorem witness_SequencesReturnToNormal :
    State.reset.kstate = 0#2 ∧ (0xEF#8 ≠ 0xF0#8 ∧ 0xEF#8 ≠ 0xE0#8) ∧ 0xE0#8 ≠ 0xF0#8 := by decide

theorem witness_SourceKeyProperties :
    (trAt 0#2 0xFF#8).kstate = 0#2 ∧ (trAt 0#2 0xFF#8).handoff = none := by decide

theorem witness_FifoOrder :
    ((bufAt 5#3 5#3).level = .event ∧ (bufAt 5#3 5#3).handoff = none ∧ (bufAt 5#3 5#3).wr = (bufAt 5#3 5#3).rd) ∧
    (List.replicate 7 0x61#8).length ≤ Config.cap - 1 ∧ (List.replicate 8 0x61#8).length = Config.cap := by decide

/-- Nine pushes keep one entry, eight keep none. -/
theorem witness_OverflowKeepsLastEntries :
    ((bufAt 5#3 5#3).level = .event ∧ (bufAt 5#3 5#3).handoff = none ∧ (bufAt 5#3 5#3).wr = (bufAt 5#3 5#3).rd) ∧
    [0x69#8].length = (List.replicate 8 0x61#8 ++ [0x69#8]).length % Config.cap ∧
    ([] : List Byte).length = (List.replicate 8 0x61#8 ++ []).length % Config.cap := by decide

/-- Two different states with one unread entry, alike in it. -/
theorem witness_UnreadEntriesNeverShow :
    (bufAt 1#3 0#3).level = .event ∧
    sameUnread (bufAt 1#3 0#3) { bufAt 1#3 0#3 with buf := (Vector.replicate 8 0xFF#8).set 0 0x00#8 } ∧
    bufAt 1#3 0#3 ≠ { bufAt 1#3 0#3 with buf := (Vector.replicate 8 0xFF#8).set 0 0x00#8 } :=
  ⟨by decide, ⟨rfl, by decide⟩, by decide⟩

/-- The invariant in the middle of a frame, and a step from there. -/
theorem witness_EventInvKept :
    EventInv { rxAt 4#4 0x80#8 with events := [.edge true] } ∧
    ∃ t, step { rxAt 4#4 0x80#8 with events := [.edge true] } = .next t :=
  ⟨by constructor <;> decide, _, rfl⟩

theorem witness_RegistersChangeOnlyByWriters :
    (let s := withEvents [.pin true]
     s.level = .event ∧ s.handoff = none ∧ s.events = .pin true :: []) ∧
    (let s := withEvents [.edge false]
     s.level = .event ∧ s.handoff = none ∧ s.events = .edge false :: []) ∧
    ∃ t, step (withEvents [.edge false]) = .next t ∧ t.rxState ≠ State.reset.rxState :=
  ⟨by decide, by decide, _, rfl, by decide⟩

theorem witness_BracketedHostNeverFaults :
    (let s := withEvents (lcdSession [.cmd (wordLinktx 0x48#8 0x05#8), .pin true])
     s.level = .event ∧ s.handoff = none ∧ bracketed s.kbdEnabled s.events = true) := by decide

/-- The state right after the acceptance of a LINKTX at the cycle level. -/
def shifting : State :=
  { disabled with level := .cycle, txBusy := true, linkSr := 0x4105#16,
                  cyc := { CycleRegs.reset with lkPhase := .shift, lkDiv := 1 } }

theorem shifting_inv : CycleInv tim shifting := by constructor <;> decide
theorem disabled_inv : CycleInv tim { disabled with level := .cycle } := by constructor <;> decide

theorem witness_CycleInvKept :
    (tim.ok ∧ CycleInv tim shifting ∧ ∃ t, clockCycle tim (lines true true) shifting = .next t) ∧
    (CycleInv Config.timing { State.cycleReset with cycles := [lines true true] } ∧
      ∃ t, step { State.cycleReset with cycles := [lines true true] } = .next t) := by
  refine ⟨⟨by decide, shifting_inv, _, rfl⟩, ⟨?_, _, rfl⟩⟩
  constructor
  case lkDiv => exact Nat.zero_le _
  all_goals decide

/-- A command that is executed, presented while no transmission is in progress and while one is. -/
theorem witness_StepRunsClockCycle :
    (let s : State := { State.cycleReset with cycles := [withCmd 0x400000#24] }
     s.level = .cycle ∧ s.cycles = withCmd 0x400000#24 :: [] ∧ (withCmd 0x400000#24).rst = false ∧
     s.handoff = none ∧ (withCmd 0x400000#24).cmdValid = true ∧
     isLinktx (cycleCmd (withCmd 0x400000#24)) = false ∧
     (isKbdon (cycleCmd (withCmd 0x400000#24)) && s.txBusy) = false) ∧
    (let s : State := { shifting with cycles := [withCmd 0x700000#24] }
     s.level = .cycle ∧ s.cycles = withCmd 0x700000#24 :: [] ∧ s.handoff = none ∧
     isLinktx (cycleCmd (withCmd 0x700000#24)) = false ∧
     (isKbdon (cycleCmd (withCmd 0x700000#24)) && s.txBusy) = false) := by decide

/-- A cycle with a command and a sample in it; a STATUS during a transmission. -/
theorem witness_CycleRefinesEvents :
    (CycleInv tim { State.cycleReset with cyc := { CycleRegs.reset with svc := .settle } } ∧
      (withCmd 0x100000#24).rst = false ∧ State.cycleReset.txBusy = false ∧
      isLinktx (cycleCmd (withCmd 0x100000#24)) = false) ∧
    (CycleInv tim shifting ∧ (withCmd 0x700000#24).rst = false ∧ shifting.txBusy = true ∧
      isLinktx (cycleCmd (withCmd 0x700000#24)) = false ∧ isKbdon (cycleCmd (withCmd 0x700000#24)) = false) :=
  ⟨⟨by constructor <;> decide, by decide⟩, shifting_inv, by decide⟩

/-- `SHIFT_DIV = 1`: in progress from the acceptance on and for 34 cycles, the commit in the 35th. -/
theorem witness_LinkTransmissionCompletes :
    tim.ok ∧ CycleInv tim { disabled with level := .cycle } ∧ disabled.kbdEnabled = false ∧
    disabled.txBusy = false ∧ (withCmd 0x504105#24).rst = false ∧
    cycleCmd (withCmd 0x504105#24) = some (.linktx 0x41#8 0x05#8) ∧
    ([] : List CycleIn).length ≤ 34 * tim.shiftDiv ∧
    (∀ j ∈ List.replicate 35 (lines true true), quiet j = true) ∧
    (List.replicate 34 (lines true true)).length ≤ 34 * tim.shiftDiv ∧
    (List.replicate 35 (lines true true)).length = 34 * tim.shiftDiv + 1 :=
  ⟨by decide, disabled_inv, by decide⟩

/-- The state at the sample of an edge, with the receiver and the data line given. -/
def sampling (st : BitVec 4) (acc : Byte) (data : BitVec 2) : State :=
  { State.cycleReset with rxState := st, rxAcc := acc, cyc := { CycleRegs.reset with svc := .settle, dataSync := data } }

/-- The state during an inhibit pulse. -/
def pulsing (timer : Nat) : State :=
  { State.cycleReset with rxState := 11#4, clkDriveLow := true,
                          cyc := { CycleRegs.reset with svc := .inhibit, svcTimer := timer } }

/-- A pending edge, with SETTLE_CYCLES 1 and 0; a sample with each of the three framing errors, and one while disabled;
a pulse with its timer
at 1 and at 0, run to the last cycle of the pulse, the first and the last of the blanking, and the end. -/
theorem witness_EdgeServiceCompletes :
    (CycleInv tim { State.cycleReset with edgePending := true } ∧ State.cycleReset.kbdEnabled = true ∧
      State.cycleReset.cyc.svc = .idle ∧
      (∀ j ∈ List.replicate 3 (lines false false), quiet j = true ∧ j.busy = State.cycleReset.busyPin) ∧
      (List.replicate 3 (lines false false)).length = tim.settleCycles + 2 ∧
      (List.replicate 3 (lines false false))[tim.settleCycles - 1]? = some (lines false false) ∧
      0 < tim.settleCycles) ∧
    (CycleInv ⟨0, 0, 3, 1⟩ { State.cycleReset with edgePending := true } ∧
      (List.replicate 2 (lines false false)).length = (⟨0, 0, 3, 1⟩ : Config.Timing).settleCycles + 2) ∧
    (CycleInv tim (sampling 0#4 0x00#8 0b10#2) ∧ (sampling 0#4 0x00#8 0b10#2).kbdEnabled = true ∧
      (sampling 0#4 0x00#8 0b10#2).cyc.svc = .settle ∧ (sampling 0#4 0x00#8 0b10#2).cyc.svcTimer = 0 ∧
      quiet (lines true true) = true ∧ (sampling 0#4 0x00#8 0b10#2).cyc.dataSync.getLsbD 1 = true ∧
      (sampling 0#4 0x00#8 0b10#2).rxState = 0#4) ∧
    (CycleInv tim (sampling 9#4 0x1C#8 0b10#2) ∧ (sampling 9#4 0x1C#8 0b10#2).rxState = 9#4 ∧
      (popcount (sampling 9#4 0x1C#8 0b10#2).rxAcc + true.toNat) % 2 = 0) ∧
    (CycleInv tim (sampling 10#4 0x1C#8 0b01#2) ∧ (sampling 10#4 0x1C#8 0b01#2).cyc.dataSync.getLsbD 1 = false) ∧
    (let s : State := { disabled with cyc := { CycleRegs.reset with svc := .settle } }
     s.kbdEnabled = false ∧ s.cyc.svc = .settle ∧ s.cyc.svcTimer = 0 ∧ quiet (lines true true) = true) ∧
    (CycleInv tim (pulsing 1) ∧ CycleInv tim (pulsing 0) ∧ (pulsing 1).cyc.svc = .inhibit ∧
      (∀ j ∈ List.replicate 6 (lines false false), quiet j = true) ∧
      1 ≤ (pulsing 1).cyc.svcTimer ∧ (pulsing 1).cyc.svcTimer < 2 ∧
      5 ≤ (pulsing 1).cyc.svcTimer + 1 + tim.blankCycles ∧ 6 = (pulsing 1).cyc.svcTimer + 1 + tim.blankCycles + 1) :=
  ⟨⟨by constructor <;> decide, by decide⟩, ⟨by constructor <;> decide, by decide⟩,
    ⟨by constructor <;> decide, by decide⟩, ⟨by constructor <;> decide, by decide⟩,
    ⟨by constructor <;> decide, by decide⟩, by decide, by constructor <;> decide, by constructor <;> decide,
    by decide⟩

/-- NOP, RXREAD, RXCOUNT, LINKBUSY, STATUS and the two kinds of illegal word poll. -/
theorem pollingWords :
    ∀ w ∈ [0x000000#24, 0x100000#24, 0x200000#24, 0x600000#24, 0x700000#24, 0x800000#24, 0x510000#24],
      cycleCmd (withCmd w) = some (decodeCmd w) ∧ polling (withCmd w) = true := by
  simp only [List.forall_mem_cons, List.not_mem_nil, false_implies, implies_true, and_true]
  exact ⟨⟨rfl, by decide⟩, ⟨rfl, by decide⟩, ⟨rfl, by decide⟩, ⟨rfl, by decide⟩, ⟨rfl, by decide⟩, ⟨rfl, by decide⟩,
    rfl, by decide⟩

/-- A next state; KBDON during a transmission; LINKTX during a transmission, in SHIFT, in LATCH and with a service in
SETTLE; LINKTX while enabled; each polling command. -/
theorem witness_CycleCommandRules :
    (lines true true).rst = false ∧ (∃ t, clockCycle tim (lines true true) State.cycleReset = .next t) ∧
    ((withCmd 0x400000#24).rst = false ∧ cycleCmd (withCmd 0x400000#24) = some (.kbdon 0x00#8 0x00#8)) ∧
    ((withCmd 0x504105#24).rst = false ∧ cycleCmd (withCmd 0x504105#24) = some (.linktx 0x41#8 0x05#8)) ∧
    (∀ ph ∈ [LkPhase.shift, LkPhase.latch], ∀ v ∈ [Svc.idle, Svc.settle],
      let s : State := { shifting with cyc := { shifting.cyc with lkPhase := ph, svc := v } }
      s.txBusy = true ∧ s.kbdEnabled = false) ∧
    State.cycleReset.kbdEnabled = true ∧
    (∀ w ∈ [0x000000#24, 0x100000#24, 0x200000#24, 0x600000#24, 0x700000#24, 0x800000#24, 0x510000#24],
      cycleCmd (withCmd w) = some (decodeCmd w) ∧ polling (withCmd w) = true) ∧
    isRxread (cycleCmd (withCmd 0x700000#24)) = false :=
  ⟨by decide, ⟨_, rfl⟩, by decide, by decide, by decide, by decide, pollingWords, by decide⟩

-- V-LK-3 at the cycle level
theorem test_cycle_linktx_enabled :
    clockCycle tim (withCmd 0x504105#24) State.cycleReset = .fault .linkWhileKeyboardEnabled := by rfl

/-- Each of the three phases of a service, for both commands, and no service for KBDON. -/
theorem witness_BracketCommandEndsService :
    (withCmd 0x300000#24).rst = false ∧ cycleCmd (withCmd 0x300000#24) = some (.kbdoff 0x00#8 0x00#8) ∧
    (withCmd 0x400000#24).rst = false ∧ cycleCmd (withCmd 0x400000#24) = some (.kbdon 0x00#8 0x00#8) ∧
    State.cycleReset.txBusy = false ∧ State.cycleReset.cyc.svc = .idle ∧
    (∀ ph ∈ [Svc.settle, Svc.inhibit, Svc.blank],
      ({ State.cycleReset with cyc := { CycleRegs.reset with svc := ph } } : State).cyc.svc ≠ .idle) := by decide

/-- The state in which a fall is seen. -/
def falling : State := { State.cycleReset with cyc := { CycleRegs.reset with clkSync := 0b00#2 } }

/-- A next state of a cycle with a fall and a STATUS, and with a KBDOFF in IDLE. -/
theorem witness_LineFallIsLatched_fall :
    (∃ t, clockCycle tim (withCmd 0x700000#24) falling = .next t) ∧
    (∃ t, clockCycle tim (withCmd 0x300000#24) falling = .next t) ∧
    ((withCmd 0x700000#24).rst = false ∧ isKbdon (cycleCmd (withCmd 0x700000#24)) = false ∧
      serviceEnded (withCmd 0x700000#24) falling = false) ∧
    ((withCmd 0x300000#24).rst = false ∧ isKbdon (cycleCmd (withCmd 0x300000#24)) = false ∧
      serviceEnded (withCmd 0x300000#24) falling = false) := by
  refine ⟨⟨_, rfl⟩, ⟨_, rfl⟩, ?_, ?_⟩ <;> decide

/-- The clock line falling in the first of three cycles, quiet or with a STATUS. -/
theorem witness_LineFallIsLatched_line :
    polling (lines false true) = true ∧ polling (withCmd 0x700000#24) = true ∧
    State.cycleReset.kbdEnabled = true ∧ State.cycleReset.cyc.svc = .idle ∧ State.cycleReset.edgePending = false ∧
    State.cycleReset.cyc.clkSync = 0b11#2 ∧ (lines false true).ps2Clk = false := by decide

theorem witness_LcdWaitLeavesAtFirstZero :
    State.reset.level = .event ∧ State.reset.handoff = none ∧ State.reset.busyPin = false ∧
    ({ State.reset with busyPin := true } : State).busyPin = true := by decide

end Sys2Proof.Machine
end

section
/-! PROOFS. What one command writes, and that no command reads the input side (R16, R28, R117). -/

namespace Sys2Proof.Machine

/-- What a command that completes may write: the response and `rd`, or KBDOFF's, KBDON's or LINKTX's own registers
(the "written by" column of R16). -/
theorem exec_cmd_writes (i : Instr) (s t : State) (hf : (encode i).format = .hostCmd) (ht : exec i s = .next t) :
    (isRxread (some i) = true ∧ t = { s with rd := t.rd, rsp := t.rsp, trace := t.trace }) ∨
    t = { s with rsp := t.rsp, trace := t.trace } ∨
    (isKbdoff (some i) = true ∧
      t = { s with kbdEnabled := t.kbdEnabled, clkDriveLow := t.clkDriveLow, rsp := t.rsp, trace := t.trace }) ∨
    (isKbdon (some i) = true ∧
      t = { s with rxState := t.rxState, rxAcc := t.rxAcc, kbdEnabled := t.kbdEnabled, edgePending := t.edgePending,
                   clkDriveLow := t.clkDriveLow, kstate := t.kstate, mods := t.mods, wr := t.wr, rd := t.rd,
                   rsp := t.rsp, trace := t.trace }) ∨
    (isLinktx (some i) = true ∧
      t = { s with outAddr := t.outAddr, outFlags := t.outFlags, linkSr := t.linkSr, rsp := t.rsp,
                   trace := t.trace }) := by
  cases i with
  | rxread =>
    obtain rfl := Host.Outcome.next.inj ht
    exact .inl ⟨rfl, by split <;> rfl⟩
  | nop | rxcount | linkbusy | status | reservedOp | reservedRsv =>
    obtain rfl := Host.Outcome.next.inj ht
    exact .inr (.inl rfl)
  | kbdoff =>
    obtain rfl := Host.Outcome.next.inj ht
    exact .inr (.inr (.inl ⟨rfl, rfl⟩))
  | kbdon =>
    obtain rfl := Host.Outcome.next.inj ht
    exact .inr (.inr (.inr (.inl ⟨rfl, rfl⟩)))
  | linktx a f =>
    refine .inr (.inr (.inr (.inr ⟨rfl, ?_⟩)))
    simp only [exec, execLinktx, shiftEdges_eq] at ht
    split at ht
    · cases ht
    · obtain rfl := Host.Outcome.next.inj ht
      split <;> rfl
  | _ => simp [encode, EventWord.format] at hf

/-- A command that completes keeps the model's own inputs, the hidden registers, the busy pin and the entries. -/
theorem exec_cmd_kept (i : Instr) (s t : State) (hf : (encode i).format = .hostCmd) (ht : exec i s = .next t) :
    keptByCommands s t := by
  rcases exec_cmd i s hf with ⟨u, hu, kept⟩ | ⟨-, -, hfault⟩
  · exact Host.Outcome.next.inj (hu.symm.trans ht) ▸ kept
  · cases hfault.symm.trans ht

/-- What a command shows, drives and leaves in the buffer is the same whatever the receiver's, translator's and
modifiers' registers are (R28, R117). -/
theorem exec_cmd_ignores_inputSide (i : Instr) (s : State) (st : BitVec 4) (acc mods : Byte) (ks : BitVec 2)
    (hf : (encode i).format = .hostCmd) :
    Res.rel (fun t u => t.rsp = u.rsp ∧ t.trace = u.trace ∧ t.ports = u.ports ∧
        t.buf = u.buf ∧ t.wr = u.wr ∧ t.rd = u.rd ∧ t.kbdEnabled = u.kbdEnabled)
      (exec i s) (exec i { s with rxState := st, rxAcc := acc, kstate := ks, mods := mods }) := by
  cases i with
  | nop | rxcount | kbdoff | kbdon | linkbusy | status | reservedOp | reservedRsv =>
    exact ⟨rfl, rfl, rfl, rfl, rfl, rfl, rfl⟩
  | rxread =>
    simp only [exec, execRxread]
    split <;> exact ⟨rfl, rfl, rfl, rfl, rfl, rfl, rfl⟩
  | linktx a f =>
    simp only [exec, execLinktx, shiftEdges_eq, linkForbidden]
    split
    · rfl
    · split <;> exact ⟨rfl, rfl, rfl, rfl, rfl, rfl, rfl⟩
  | _ => simp [encode, EventWord.format] at hf

/-- Settles O49, by the rows of the command table: none reads these registers, and KBDON overwrites them. -/
theorem hostSeesNoInputState : Obligations.HostSeesNoInputState := by
  intro w s st acc mods ks
  exact exec_cmd_ignores_inputSide _ s st acc mods ks (format_decodeCmd w)

/-- Settles O3: `step` at the event level takes the stimulus off the list and applies it. -/
theorem stepRunsDecodedCommand : Obligations.StepRunsDecodedCommand := by
  intro s w es hl hh he
  rw [step_event s hl hh, he]
  rfl

/-- Settles O48, by the stimulus; a command by what its row may write. -/
theorem registersChangeOnlyByWriters : Obligations.RegistersChangeOnlyByWriters := by
  refine ⟨fun s b es hl hh he => by rw [step_event s hl hh, he]; rfl, ?_⟩
  intro s t e es hl hh he ht
  simp only [step_event s hl hh, he] at ht
  cases e with
  | edge d =>
    obtain ⟨u, hu, fu⟩ := edgeStep_spec d { s with events := es } hh
    obtain rfl := Host.Outcome.next.inj (hu.symm.trans ht)
    rw [fu]
    simp [Event.isEdge]
  | cmd w =>
    rcases exec_cmd_writes _ _ _ (format_decodeCmd w) ht with
      ⟨h, ft⟩ | ft | ⟨h, ft⟩ | ⟨h, ft⟩ | ⟨h, ft⟩ <;> rw [ft]
    · simp [eventCmd, h]
    · simp
    · simp [eventCmd, h]
    · simp [eventCmd, h]
    · simp [eventCmd, h]
  | pin b =>
    obtain rfl := Host.Outcome.next.inj ht
    simp
  | reset =>
    obtain rfl := Host.Outcome.next.inj ht
    simp [resetBlock]

end Sys2Proof.Machine
end

section
/-! PROOFS. The event-level view of a cycle (R6): the receiver's, the translator's and the commands' instructions
neither read nor write the registers the view forgets, so each part of a cycle commutes with it. -/

namespace Sys2Proof.Machine

/-! ### The registers no receiver or translator instruction touches -/

/-- `s` with the registers of `h` that the receive pipeline neither reads nor writes. -/
def State.withHiddenOf (h s : State) : State :=
  { s with level := h.level, events := h.events, cycles := h.cycles, edgePending := h.edgePending,
           clkDriveLow := h.clkDriveLow, cyc := h.cyc }

/-- A receiver instruction does not touch the hidden registers. -/
theorem exec_rx_withHiddenOf (i : Instr) (h s : State) (hf : (encode i).format = .rxEvent) :
    exec i (h.withHiddenOf s) = andThen (exec i s) fun t => .next (h.withHiddenOf t) := by
  cases i with
  | rxStart d => cases d <;> rfl
  | rxStop d => cases d <;> rfl
  | rxParity d =>
    by_cases hp : (xor8 s.rxAcc ^^ d) = true <;> simp [exec, execRxParity, State.withHiddenOf, raiseFraming, hp]
  | nop | rxread | rxcount | kbdoff | kbdon | linktx | linkbusy | status | reservedOp | reservedRsv
  | trNormalF0 | trNormalE0 | trNormalOther | trBreak | trExtF0 | trExtOther | trExtbreak =>
    simp [encode, EventWord.format] at hf
  | _ => rfl

/-- A byte that gives no character does not touch the hidden registers. -/
theorem noCharacter_withHiddenOf (b : Byte) (h s : State) :
    noCharacter b (h.withHiddenOf s) = h.withHiddenOf (noCharacter b s) := by
  by_cases hb : b = Config.escCode <;> simp only [noCharacter, hb, if_true, if_false] <;> rfl

/-- A translator instruction does not touch the hidden registers. -/
theorem exec_tr_withHiddenOf (i : Instr) (h s : State) (hf : (encode i).format = .trEvent) :
    exec i (h.withHiddenOf s) = andThen (exec i s) fun t => .next (h.withHiddenOf t) := by
  cases i with
  | trNormalOther b =>
    simp only [exec, execTrNormalOther, andThen_next, State.withHiddenOf]
    cases lookup s.mods b with
    | some v => rfl
    | none => exact congrArg _ (noCharacter_withHiddenOf b h s)
  | trNormalF0 | trNormalE0 | trBreak | trExtF0 | trExtOther | trExtbreak => rfl
  | _ => simp [encode, EventWord.format] at hf

theorem format_decodeTr (w : TrWord) : (encode (decodeTr w)).format = .trEvent := by
  simp only [decodeTr]
  split_ifs <;> rfl

/-- The translator's step does not touch the hidden registers. -/
theorem runTranslator_withHiddenOf (h s : State) :
    runTranslator (h.withHiddenOf s) = andThen (runTranslator s) fun t => .next (h.withHiddenOf t) := by
  cases hb : s.handoff with
  | none => rw [runTranslator_none s hb, runTranslator_none (h.withHiddenOf s) hb, andThen_next]
  | some b =>
    have e : runTranslator (h.withHiddenOf s) =
        exec (decodeTr (trev s.kstate b)) (h.withHiddenOf { s with handoff := none }) := by
      simp only [runTranslator, State.withHiddenOf, hb]
    rw [e, exec_tr_withHiddenOf _ _ _ (format_decodeTr _)]
    simp only [runTranslator, hb]

/-- The state rule with the translator's step does not touch the hidden registers. -/
theorem receive_withHiddenOf (d : Bool) (h s : State) :
    receive d (h.withHiddenOf s) = andThen (receive d s) fun t => .next (h.withHiddenOf t) := by
  obtain ⟨u, hu, -⟩ := exec_decodeRx (rxev s.rxState d) s
  have hv : exec (decodeRx (rxev s.rxState d)) (h.withHiddenOf s) = .next (h.withHiddenOf u) := by
    rw [exec_rx_withHiddenOf _ _ _ (format_decodeRx _), hu, andThen_next]
  calc receive d (h.withHiddenOf s)
      = andThen (exec (decodeRx (rxev s.rxState d)) (h.withHiddenOf s)) runTranslator := rfl
    _ = andThen (runTranslator u) fun t => .next (h.withHiddenOf t) := by
        rw [hv, andThen_next, runTranslator_withHiddenOf]
    _ = andThen (receive d s) fun t => .next (h.withHiddenOf t) := by rw [receive, hu, andThen_next]

/-- A receiver instruction leads from a named state to a named state (R17). -/
theorem exec_rx_rxState_le (i : Instr) (s t : State) (hf : (encode i).format = .rxEvent)
    (hs : s.rxState ≤ rxError) (ht : exec i s = .next t) : t.rxState ≤ rxError := by
  cases i with
  | rxStart d =>
    obtain rfl := Host.Outcome.next.inj ht
    cases d <;> exact BitVec.ofNat_le_ofNat.mpr (by decide)
  | rxStop d =>
    obtain rfl := Host.Outcome.next.inj ht
    cases d <;> exact BitVec.ofNat_le_ofNat.mpr (by decide)
  | rxParity d =>
    obtain rfl := Host.Outcome.next.inj ht
    split <;> exact BitVec.ofNat_le_ofNat.mpr (by decide)
  | rxError =>
    obtain rfl := Host.Outcome.next.inj ht
    exact hs
  | rxBit0 | rxBit1 | rxBit2 | rxBit3 | rxBit4 | rxBit5 | rxBit6 | rxBit7 | rxUnused =>
    obtain rfl := Host.Outcome.next.inj ht
    exact BitVec.ofNat_le_ofNat.mpr (by decide)
  | _ => simp [encode, EventWord.format] at hf

/-- So does the state rule with the translator's step. -/
theorem receive_rxState_le (d : Bool) (s t : State) (hs : s.rxState ≤ rxError) (ht : receive d s = .next t) :
    t.rxState ≤ rxError := by
  obtain ⟨u, hu, hut⟩ := (andThen_eq_next _ _ _).mp ht
  obtain ⟨t', ht', ft⟩ := runTranslator_spec u
  obtain rfl := Host.Outcome.next.inj (ht'.symm.trans hut)
  rw [ft]
  exact exec_rx_rxState_le _ s u (format_decodeRx _) hs hu

/-! ### The event-level view with stimuli to come -/

/-- The event-level view of a state, with stimuli to come. -/
def State.viewWith (es : List Event) (s : State) : State := { s.eventView with events := es }

/-- Viewing twice is viewing once, whatever the hidden registers. -/
theorem eventView_eventView (s : State) (c : CycleRegs) : { s.eventView with cyc := c }.eventView = s.eventView := by
  by_cases h : s.rxState = rxError <;> simp [State.eventView, h]

/-- Outside ERROR the view changes hidden registers only. -/
theorem viewWith_eq_withHiddenOf (es : List Event) (s : State) (h : s.rxState ≠ rxError) :
    s.viewWith es = (s.viewWith es).withHiddenOf s := by
  simp [State.viewWith, State.eventView, State.withHiddenOf, h]

/-- A command other than LINKTX commutes with the view (R139). -/
theorem exec_cmd_viewWith (i : Instr) (es : List Event) (s : State) (hf : (encode i).format = .hostCmd)
    (hl : isLinktx (some i) = false) :
    exec i (s.viewWith es) = andThen (exec i s) fun t => .next (t.viewWith es) := by
  cases i with
  | linktx => simp [isLinktx] at hl
  | nop | rxcount | kbdoff | kbdon | linkbusy | status | reservedOp | reservedRsv => rfl
  | rxread => by_cases h : s.wr = s.rd <;> simp [exec, execRxread, State.viewWith, State.eventView, respond, h]
  | _ => simp [encode, EventWord.format] at hf

/-- The end of a sample by the receiver's state (R136). -/
theorem afterSample_cases (p : Config.Timing) (s : State) (hle : s.rxState ≤ rxError) :
    (s.rxState = rxError ∧ afterSample p s = beginInhibit p s) ∨
    (s.rxState ≠ rxError ∧ afterSample p s = { s with cyc := { s.cyc with svc := .idle } }) := by
  by_cases h : s.rxState = rxError
  · exact .inl ⟨h, if_pos (BitVec.le_of_eq h.symm)⟩
  · exact .inr ⟨h, if_neg fun hge => h (BitVec.le_antisymm hle hge)⟩

/-- The final test of rule R63 on the view is the cycle level's own end of the sample, in the view: the pulse that
begins counts as done (log 23). -/
theorem recoverIfError_view (p : Config.Timing) (es : List Event) (s t : State) (hk : s.kbdEnabled = true)
    (ht : t.kbdEnabled = true) (hle : t.rxState ≤ rxError) :
    recoverIfError ((s.viewWith es).withHiddenOf t) = (afterSample p t).viewWith es := by
  rcases afterSample_cases p t hle with ⟨he, ha⟩ | ⟨he, ha⟩ <;> rw [ha]
  · have hrec : recoverIfError ((s.viewWith es).withHiddenOf t) = recovery ((s.viewWith es).withHiddenOf t) :=
      if_pos he
    rw [hrec]
    simp [recovery, beginInhibit, State.viewWith, State.eventView, State.withHiddenOf, ht]
  · have hrec : recoverIfError ((s.viewWith es).withHiddenOf t) = (s.viewWith es).withHiddenOf t := if_neg he
    rw [hrec]
    simp [State.viewWith, State.eventView, State.withHiddenOf, ht, hk, he]

/-- The sample of an edge is, in the view, the event-level edge (R136). -/
theorem edgeStep_viewWith (p : Config.Timing) (d : Bool) (es : List Event) (s : State)
    (hk : s.kbdEnabled = true) (hs : s.rxState < rxError) :
    edgeStep d (s.viewWith es) = andThen (sampleEdge p d s) fun t => .next (t.viewWith es) := by
  obtain ⟨t, ht, ft⟩ := receive_spec d s
  have htk : t.kbdEnabled = true := by rw [ft]; exact hk
  have hle := receive_rxState_le d s t (BitVec.le_of_lt hs) ht
  have hv : receive d (s.viewWith es) = .next ((s.viewWith es).withHiddenOf t) := by
    rw [viewWith_eq_withHiddenOf es s (BitVec.ne_of_lt hs), receive_withHiddenOf, ht, andThen_next]
    rfl
  have hvk : (s.viewWith es).kbdEnabled = true := hk
  simp only [edgeStep, sampleEdge, hvk, hk, if_true, hv, ht, andThen_next, recoverIfError_view p es s t hk htk hle]

/-! ### The service part in the view -/

/-- What the edge service relies on after the command of the cycle (R138). -/
structure ServiceReady (s : State) : Prop where
  handoff : s.handoff = none
  settle : s.cyc.svc = .settle → s.rxState < rxError
  inhibit : s.cyc.svc = .inhibit → s.rxState = rxError ∨ s.rxState = rxAwaitStart
  blank : s.cyc.svc = .blank → s.rxState = rxAwaitStart

/-- The cycle-level invariant gives it before the command. -/
theorem CycleInv.serviceReady {p : Config.Timing} {s : State} (h : CycleInv p s) : ServiceReady s where
  handoff := h.handoff
  settle hs := by
    refine BitVec.lt_of_le_ne h.rxState fun he => ?_
    rw [h.rxError.mp he] at hs
    cases hs
  inhibit hs := .inl (h.rxError.mpr hs)
  blank hs := h.blank hs

/-- Outside a transmission the link sequencer is idle (R27, R141). -/
theorem CycleInv.lkPhase_idle {p : Config.Timing} {s : State} (h : CycleInv p s) (hb : s.txBusy = false) :
    s.cyc.lkPhase = .idle := by
  by_contra hn
  exact absurd (h.txBusy.mpr hn) (by simp [hb])

/-- No transmission is in progress while the interface is enabled (R130). -/
theorem CycleInv.txBusy_false {p : Config.Timing} {s : State} (h : CycleInv p s) (hk : s.kbdEnabled = true) :
    s.txBusy = false := by
  by_contra hn
  exact absurd (h.exclusive (by simpa using hn)) (by simp [hk])

/-- A recovery that completes does not show in the view (log 23). -/
theorem eventView_recovered (s t : State) (hs : s.rxState = rxError ∨ s.rxState = rxAwaitStart)
    (ht : t = { s with rxState := rxAwaitStart, edgePending := t.edgePending, clkDriveLow := t.clkDriveLow,
                       cyc := t.cyc }) : t.eventView = s.eventView := by
  rw [ht]
  rcases hs with h | h <;> simp [State.eventView, h, rxError, rxAwaitStart]

/-- A service ended by KBDOFF or KBDON does not show in the view (R138). -/
theorem eventView_endService (s : State) (h : ServiceReady s) : (endService s).eventView = s.eventView := by
  cases hs : s.cyc.svc with
  | idle | settle => simp only [endService, hs]; rfl
  | inhibit => exact eventView_recovered _ _ (h.inhibit hs) (by simp only [endService, hs])
  | blank => exact eventView_recovered _ _ (.inr (h.blank hs)) (by simp only [endService, hs])

/-- The cycle samples exactly at the end of SETTLE, while enabled and without a command that ends the service. -/
theorem samples_iff (i : CycleIn) (s : State) : samples i s = true ↔
    s.cyc.svc = .settle ∧ s.cyc.svcTimer = 0 ∧ s.kbdEnabled = true ∧ endsService (cycleCmd i) = false := by
  simp only [samples, serviceEnded, Bool.and_eq_true, beq_iff_eq, Bool.not_eq_true', and_assoc]
  refine and_congr_right fun hs => ?_
  have : (s.cyc.svc != .idle) = true := by rw [hs]; rfl
  rw [this, Bool.and_true]

/-- A service part without a sample does not show in the view. -/
theorem eventView_cycleService (p : Config.Timing) (i : CycleIn) (d : Bool) (s : State) (h : ServiceReady s)
    (hn : samples i s = false) : ∃ t, cycleService p i d s = .next t ∧ t.eventView = s.eventView := by
  unfold cycleService
  split
  · exact ⟨_, rfl, eventView_endService s h⟩
  · next he =>
    unfold serviceCycle
    split
    · split <;> exact ⟨_, rfl, rfl⟩
    · next hs =>
      split
      · exact ⟨_, rfl, rfl⟩
      · next ht =>
        have hk : s.kbdEnabled = false := by simpa [samples, hs, he, Nat.eq_zero_of_not_pos ht] using hn
        rw [sampleEdge, if_neg (Bool.eq_false_iff.mp hk)]
        exact ⟨_, rfl, rfl⟩
    · next hs =>
      split
      · exact ⟨_, rfl, rfl⟩
      · exact ⟨_, rfl, eventView_recovered _ _ (h.inhibit hs) rfl⟩
    · split <;> exact ⟨_, rfl, rfl⟩

/-- A cycle that takes a sample runs the sample as its service part. -/
theorem cycleService_samples (p : Config.Timing) (i : CycleIn) (d : Bool) (s : State) (h : samples i s = true) :
    cycleService p i d s = sampleEdge p d s := by
  obtain ⟨hs, ht, -, he⟩ := (samples_iff i s).mp h
  simp [cycleService, serviceCycle, serviceEnded_none i s he, hs, ht]

/-- The service part of a cycle is, in the view, the edge it samples, if it samples one. -/
theorem cycleService_view (p : Config.Timing) (i : CycleIn) (d : Bool) (s : State) (h : ServiceReady s) :
    ∃ t, cycleService p i d s = .next t ∧
      if samples i s then edgeStep d s.eventView = .next t.eventView else t.eventView = s.eventView := by
  cases hn : samples i s with
  | false => exact eventView_cycleService p i d s h hn
  | true =>
    obtain ⟨hs, -, hk, -⟩ := (samples_iff i s).mp hn
    obtain ⟨t, ht, -⟩ := sampleEdge_spec p d s h.handoff
    refine ⟨t, (cycleService_samples p i d s hn).trans ht, ?_⟩
    have hv := edgeStep_viewWith p d [] s hk (h.settle hs)
    rw [ht] at hv
    exact hv

/-! ### The command part in the view -/

/-- A command other than LINKTX, and KBDON outside a transmission, has its event-level effect (R139). -/
theorem cycleExec_exec (p : Config.Timing) (i : Instr) (s : State) (hl : isLinktx (some i) = false)
    (hk : (isKbdon (some i) && s.txBusy) = false) : cycleExec p i s = exec i s := by
  cases i with
  | kbdon a b => exact cycleExec_kbdon p a b s (by simpa [isKbdon] using hk)
  | linktx => simp [isLinktx] at hl
  | _ => rfl

/-- The command presented in a cycle decodes to a host command. -/
theorem cycleCmd_valid (i : CycleIn) (h : i.cmdValid = true) : cycleCmd i = some (decodeCmd i.cmd) := if_pos h

/-- Such a command keeps what the edge service relies on. -/
theorem exec_cmd_serviceReady (i : Instr) (s t : State) (hf : (encode i).format = .hostCmd) (hs : ServiceReady s)
    (ht : exec i s = .next t) : ServiceReady t := by
  rcases exec_cmd_writes i s t hf ht with ⟨-, ft⟩ | ft | ⟨-, ft⟩ | ⟨hk, ft⟩ | ⟨-, ft⟩
  · rw [ft]; exact ⟨hs.handoff, hs.settle, hs.inhibit, hs.blank⟩
  · rw [ft]; exact ⟨hs.handoff, hs.settle, hs.inhibit, hs.blank⟩
  · rw [ft]; exact ⟨hs.handoff, hs.settle, hs.inhibit, hs.blank⟩
  · cases i with
    | kbdon =>
      obtain rfl := Host.Outcome.next.inj ht
      exact ⟨hs.handoff, fun _ => (by decide : rxAwaitStart < rxError), fun _ => .inr rfl, fun _ => rfl⟩
    | _ => simp [isKbdon] at hk
  · rw [ft]; exact ⟨hs.handoff, hs.settle, hs.inhibit, hs.blank⟩

/-- The commands that end a service are KBDON and KBDOFF (R138). -/
theorem endsService_eq (i : Instr) : endsService (some i) = (isKbdon (some i) || isKbdoff (some i)) := by
  cases i <;> rfl

/-- A command that ends no service leaves `kbd_enabled` alone. -/
theorem exec_cmd_keeps_kbdEnabled (i : Instr) (s t : State) (hf : (encode i).format = .hostCmd)
    (he : endsService (some i) = false) (ht : exec i s = .next t) : t.kbdEnabled = s.kbdEnabled := by
  rcases exec_cmd_writes i s t hf ht with ⟨-, ft⟩ | ft | ⟨hk, -⟩ | ⟨hk, -⟩ | ⟨-, ft⟩
  · rw [ft]
  · rw [ft]
  · simp [endsService_eq, hk] at he
  · simp [endsService_eq, hk] at he
  · rw [ft]

/-- Whether the cycle samples is decided before its command (R138, R140). -/
theorem samples_congr (i : CycleIn) (s t : State) (hs : t.cyc.svc = s.cyc.svc) (ht : t.cyc.svcTimer = s.cyc.svcTimer)
    (hk : endsService (cycleCmd i) = false → t.kbdEnabled = s.kbdEnabled) : samples i t = samples i s := by
  rw [Bool.eq_iff_iff, samples_iff, samples_iff, hs, ht]
  refine and_congr_right fun _ => and_congr_right fun _ => and_congr_left fun he => ?_
  rw [hk he]

/-- A run of the event level takes the head of the stimuli, in the view. -/
theorem run_viewWith_cons (e : Event) (es : List Event) (s t : State) (hh : s.handoff = none)
    (h : applyEvent e (s.viewWith es) = .next (t.viewWith es)) :
    core.run (e :: es).length (s.viewWith (e :: es)) = core.run es.length (t.viewWith es) := by
  refine run_step es.length _ _ ?_
  rw [step_event (s.viewWith (e :: es)) rfl hh]
  exact h

/-- The stimulus the command part stands for. -/
def commandEvents (i : CycleIn) : List Event := if i.cmdValid then [.cmd i.cmd] else []

/-- The stimulus the service part stands for: the edge, where it is sampled. -/
def edgeEvents (sampled d : Bool) : List Event := if sampled then [.edge d] else []

/-- The run of the service part's stimulus, in the view. -/
theorem run_edgeEvents (sampled d : Bool) (s t : State) (hh : s.handoff = none)
    (h : if sampled then edgeStep d s.eventView = .next t.eventView else t.eventView = s.eventView) :
    core.run (edgeEvents sampled d).length (s.viewWith (edgeEvents sampled d)) = .next t.eventView := by
  cases sampled with
  | true => exact run_viewWith_cons (.edge d) [] s t hh h
  | false => exact congrArg _ (Eq.symm h)

/-- The command part of a cycle is, in the view, its command (R139). -/
theorem cycleCommand_view (p : Config.Timing) (i : CycleIn) (s : State) (hs : ServiceReady s)
    (hl : isLinktx (cycleCmd i) = false) (hk : (isKbdon (cycleCmd i) && s.txBusy) = false) :
    ∃ t, cycleCommand p i s = .next t ∧ ServiceReady t ∧ samples i t = samples i s ∧
      t.cyc = { s.cyc with rspValid := i.cmdValid } ∧
      ∀ es, core.run (commandEvents i ++ es).length (s.viewWith (commandEvents i ++ es)) =
        core.run es.length (t.viewWith es) := by
  cases hv : i.cmdValid with
  | false =>
    refine ⟨_, cycleCommand_none p i s hv, ⟨hs.handoff, hs.settle, hs.inhibit, hs.blank⟩,
      samples_congr i _ _ rfl rfl fun _ => rfl, rfl, fun es => ?_⟩
    simp only [commandEvents, hv]
    rfl
  | true =>
    have hc := cycleCmd_valid i hv
    rw [hc] at hl hk
    have hf := format_decodeCmd i.cmd
    obtain ⟨t, ht⟩ : ∃ t, exec (decodeCmd i.cmd) s = .next t :=
      exec_decodeCmd_next _ _ fun a f e => by rw [e] at hl; cases hl
    obtain ⟨-, -, -, -, hcyc, -⟩ := exec_cmd_kept _ s t hf ht
    have hr := exec_cmd_serviceReady _ s t hf hs ht
    refine ⟨_, cycleCommand_some p i s t _ hc ((cycleExec_exec p _ s hl hk).trans ht),
      ⟨hr.handoff, hr.settle, hr.inhibit, hr.blank⟩, ?_, by rw [hcyc], fun es => ?_⟩
    · refine samples_congr i _ _ (by rw [hcyc]) (by rw [hcyc]) fun he => ?_
      exact exec_cmd_keeps_kbdEnabled _ s t hf (hc ▸ he) ht
    · simp only [commandEvents, hv, if_true]
      refine run_viewWith_cons _ es s _ hs.handoff ?_
      rw [applyEvent, exec_cmd_viewWith _ es s hf hl, ht]
      rfl

/-! ### The link part in the view -/

/-- The sequencer reads and writes nothing the view replaces but its own registers, so its part of a cycle can be
taken after the view as well. -/
theorem linkCycle_eventView (p : Config.Timing) (ph : LkPhase) (s : State) (c : CycleRegs)
    (hc : c = { s.cyc with svc := c.svc, svcTimer := c.svcTimer, rspValid := c.rspValid }) :
    (linkCycle p ph { s.eventView with cyc := c }).eventView = (linkCycle p ph s).eventView := by
  rw [hc]
  have view := eventView_eventView s
  cases ph with
  | idle => exact view _
  | shift =>
    simp only [linkCycle, shiftCycle]
    split_ifs
    -- the rising edge, the last branch, also records its bit
    on_goal 6 => exact eventView_eventView { s with trace := .shiftEdge s.cyc.srData :: s.trace } _
    all_goals exact view _
  | latch =>
    simp only [linkCycle, latchCycle]
    split_ifs
    -- the commit, the last branch, also writes the outputs
    on_goal 3 => exact eventView_eventView (latchOutputs { s with txBusy := false }) _
    all_goals exact view _

/-! ### The whole cycle in the view -/

/-- A cycle without reset, LINKTX and a KBDON during a transmission is, in the view, its stimuli in order, followed by
the link sequencer's own part. -/
theorem clockCycle_view (p : Config.Timing) (i : CycleIn) (s : State) (hi : CycleInv p s) (hr : i.rst = false)
    (hl : isLinktx (cycleCmd i) = false) (hk : (isKbdon (cycleCmd i) && s.txBusy) = false) :
    ∃ t u, clockCycle p i s = .next t ∧
      core.run (cycleEvents i s).length (s.viewWith (cycleEvents i s)) = .next u.eventView ∧
      t.eventView = (linkCycle p s.cyc.lkPhase u).eventView ∧
      s.cyc = { u.cyc with svc := s.cyc.svc, svcTimer := s.cyc.svcTimer, rspValid := s.cyc.rspValid } := by
  have hs := hi.serviceReady
  obtain ⟨t, ht, htr, hsmp, htc, hcmd⟩ := cycleCommand_view p i { s with busyPin := i.busy }
    ⟨hs.handoff, hs.settle, hs.inhibit, hs.blank⟩ hl hk
  obtain ⟨u, hu, hview⟩ := cycleService_view p i (s.cyc.dataSync.getLsbD 1) t htr
  obtain ⟨u', hu', fu⟩ := cycleService_spec p i (s.cyc.dataSync.getLsbD 1) t htr.handoff
  obtain rfl := Host.Outcome.next.inj (hu'.symm.trans hu)
  refine ⟨_, u', (clockCycle_run p i s hr).trans (runCycle_eq p i _ t u' ht hu), ?_, ?_, ?_⟩
  · let edges := edgeEvents (samples i s) (s.cyc.dataSync.getLsbD 1)
    calc core.run (cycleEvents i s).length (s.viewWith (cycleEvents i s))
        = core.run (commandEvents i ++ edges).length
            (State.viewWith (commandEvents i ++ edges) { s with busyPin := i.busy }) :=
          run_viewWith_cons (.pin i.busy) (commandEvents i ++ edges) s _ hs.handoff rfl
      _ = core.run edges.length (t.viewWith edges) := hcmd edges
      _ = .next u'.eventView := run_edgeEvents _ _ t u' htr.handoff (hsmp ▸ hview)
  · rw [latchFall_frame]
    rfl
  · rw [fu, htc]

/-- Settles O53: each part of a cycle commutes with the view. Outside a transmission the sequencer is idle; within one
its part is the same before and after the view. -/
theorem cycleRefinesEvents : Obligations.CycleRefinesEvents := by
  refine ⟨fun p i s hi hr hb hl => ?_, fun p i s hi hr _ hl hk => ?_⟩
  · obtain ⟨t, u, ht, hu, hv, -⟩ := clockCycle_view p i s hi hr hl (by simp [hb])
    rw [hi.lkPhase_idle hb, linkCycle_idle] at hv
    exact ⟨t, ht, hv ▸ hu⟩
  · obtain ⟨t, u, ht, hu, hv, hc⟩ := clockCycle_view p i s hi hr hl (by simp [hk])
    exact ⟨t, u.eventView, ht, hu, hv.trans (linkCycle_eventView p _ u s.cyc hc).symm⟩

/-- A command other than LINKTX and a KBDON during a transmission is executed on the state before the cycle; the other
parts of the cycle write neither its response nor `kbd_enabled` nor `rd` (R139, R140). -/
theorem clockCycle_command (p : Config.Timing) (i : CycleIn) (s : State) (hr : i.rst = false) (hh : s.handoff = none)
    (hv : i.cmdValid = true) (hl : isLinktx (cycleCmd i) = false) (hk : (isKbdon (cycleCmd i) && s.txBusy) = false) :
    ∃ u t, exec (decodeCmd i.cmd) { s with busyPin := i.busy } = .next u ∧ clockCycle p i s = .next t ∧
      t.rsp = u.rsp ∧ t.cyc.rspValid = true ∧ t.kbdEnabled = u.kbdEnabled ∧ t.rd = u.rd ∧
      t.busyPin = i.busy ∧ t.level = s.level ∧ t.cycles = s.cycles := by
  have hcmd := cycleCmd_valid i hv
  rw [hcmd] at hl hk
  obtain ⟨u, hu⟩ := exec_decodeCmd_next i.cmd { s with busyPin := i.busy } fun a f e => by rw [e] at hl; cases hl
  obtain ⟨klevel, -, kcycles, khandoff, -, kbusy, -, -⟩ := exec_cmd_kept _ _ u (format_decodeCmd i.cmd) hu
  have hcc := cycleCommand_some p i _ u _ hcmd ((cycleExec_exec p _ { s with busyPin := i.busy } hl hk).trans hu)
  obtain ⟨v, hv', fv⟩ := cycleService_spec p i (s.cyc.dataSync.getLsbD 1)
    { u with cyc := { u.cyc with rspValid := true } } (khandoff.trans hh)
  refine ⟨u, _, hu, (clockCycle_run _ i _ hr).trans (runCycle_eq _ i _ _ v hcc hv'), ?_⟩
  rw [latchFall_frame, linkCycle_frame, fv]
  exact ⟨rfl, rfl, rfl, rfl, kbusy, klevel, kcycles⟩

/-- Settles O60: a step is the cycle at the head of the list, which executes its command. -/
theorem stepRunsClockCycle : Obligations.StepRunsClockCycle := by
  intro s i is hl hc hr
  have hstep := step_cycle s i is hl hc
  refine ⟨hstep, fun hh hv hx hk => ?_⟩
  obtain ⟨u, t, hu, ht, hrsp, hvalid, hen, hrd, hbusy, hlev, hcyc⟩ :=
    clockCycle_command Config.timing i { s with cycles := is } hr hh hv hx hk
  exact ⟨u, t, hu, hstep.trans ht, hrsp, hvalid, hen, hrd, hbusy, hlev.trans hl, hcyc⟩

end Sys2Proof.Machine
end

section
/-! PROOFS. The edge service with the host quiet (R136, R138): its counted phases, its sample, its recovery. -/

namespace Sys2Proof.Machine

/-! ### A quiet cycle -/

theorem quiet_iff (i : CycleIn) : quiet i = true ↔ i.rst = false ∧ i.cmdValid = false := by
  simp [quiet]

/-- The state on which the edge service acts in a quiet cycle. -/
def quietBefore (i : CycleIn) (s : State) : State :=
  { s with busyPin := i.busy, cyc := { s.cyc with rspValid := false } }

/-- Nothing is latched in INHIBIT and BLANK (R138). -/
theorem latchFall_not_latching (i : CycleIn) (b s : State) (h : latchingPhase b.cyc.svc = false) :
    latchFall i b s = s := by
  simp [latchFall, h]

/-- The end of a cycle: edge detection sets `edge_pending` or leaves it, and the lines are sampled (R135). -/
def cycleEnd (i : CycleIn) (ep : Bool) (s : State) : State :=
  { s with edgePending := ep, cyc := sampleLines i s.cyc }

/-- A quiet cycle is its service part, its link part and its end. -/
theorem clockCycle_quiet (p : Config.Timing) (i : CycleIn) (s u : State) (hq : quiet i = true)
    (hu : serviceCycle p (s.cyc.dataSync.getLsbD 1) (quietBefore i s) = .next u) :
    ∃ ep, clockCycle p i s = .next (cycleEnd i ep (linkCycle p s.cyc.lkPhase u)) ∧
      (s.kbdEnabled = false ∨ latchingPhase s.cyc.svc = false → ep = u.edgePending) := by
  obtain ⟨hr, hv⟩ := (quiet_iff i).mp hq
  have hservice : cycleService p i (s.cyc.dataSync.getLsbD 1) (quietBefore i s) = .next u := by
    rw [cycleService, serviceEnded_none i _ (by simp [cycleCmd, hv, endsService])]
    exact hu
  refine ⟨(latchFall i { s with busyPin := i.busy } (linkCycle p s.cyc.lkPhase u)).edgePending, ?_, fun h => ?_⟩
  · rw [clockCycle_run p i s hr, runCycle_eq p i _ _ u (cycleCommand_none p i _ hv) hservice, latchFall_frame]
    rfl
  · have hsame : latchFall i { s with busyPin := i.busy } (linkCycle p s.cyc.lkPhase u) =
        linkCycle p s.cyc.lkPhase u := by
      rcases h with hk | hl
      · exact latchFall_disabled _ _ _ hk
      · exact latchFall_not_latching _ _ _ hl
    rw [hsame, linkCycle_frame]

/-- So with the link sequencer idle. -/
theorem clockCycle_quiet_link_idle (p : Config.Timing) (i : CycleIn) (s u : State) (hq : quiet i = true)
    (hph : s.cyc.lkPhase = .idle)
    (hu : serviceCycle p (s.cyc.dataSync.getLsbD 1) (quietBefore i s) = .next u) :
    ∃ ep, clockCycle p i s = .next (cycleEnd i ep u) ∧ (latchingPhase s.cyc.svc = false → ep = u.edgePending) := by
  obtain ⟨ep, ht, hep⟩ := clockCycle_quiet p i s u hq hu
  rw [hph, linkCycle_idle] at ht
  exact ⟨ep, ht, fun h => hep (.inr h)⟩

/-! ### The counted phases -/

/-- Outside IDLE a timer that has not run out is counted down, and nothing else happens (R136). -/
theorem serviceCycle_counts (p : Config.Timing) (d : Bool) (s : State) (hs : s.cyc.svc ≠ .idle)
    (ht : 0 < s.cyc.svcTimer) :
    serviceCycle p d s = .next { s with cyc := { s.cyc with svcTimer := s.cyc.svcTimer - 1 } } := by
  unfold serviceCycle
  split
  · next h => exact absurd h hs
  · exact if_pos ht
  · rw [if_pos ht]
  · rw [if_pos ht]

/-- The levels of the data line that the second synchroniser stage shows in turn while the given cycles run (R135). -/
def dataLevels (is : List CycleIn) (c : CycleRegs) : List Bool :=
  c.dataSync.getLsbD 1 :: c.dataSync.getLsbD 0 :: is.map (·.ps2Data)

/-- A cycle moves the data line's levels on by one. -/
theorem dataLevels_sampleLines (i : CycleIn) (is : List CycleIn) (c : CycleRegs) :
    dataLevels is (sampleLines i c) = (dataLevels (i :: is) c).drop 1 := by
  simp only [dataLevels, sampleLines_dataSync_one, sampleLines_dataSync_zero]
  rfl

/-- `t` is `s` after the given quiet cycles, in which the service only counted. -/
structure Counted (is : List CycleIn) (s t : State) : Prop where
  frame : t = { s with busyPin := t.busyPin, edgePending := t.edgePending, cyc := t.cyc }
  svc : t.cyc.svc = s.cyc.svc
  timer : t.cyc.svcTimer + is.length = s.cyc.svcTimer
  lkPhase : t.cyc.lkPhase = .idle
  edge : latchingPhase s.cyc.svc = false → t.edgePending = s.edgePending
  busy : (∀ j ∈ is, j.busy = s.busyPin) → t.busyPin = s.busyPin
  data : ∀ js, dataLevels js t.cyc = (dataLevels (is ++ js) s.cyc).drop is.length

/-- One quiet cycle that counts. -/
theorem clockCycle_counts (p : Config.Timing) (i : CycleIn) (s : State) (hq : quiet i = true)
    (hph : s.cyc.lkPhase = .idle) (hs : s.cyc.svc ≠ .idle) (ht : 0 < s.cyc.svcTimer) :
    ∃ t, clockCycle p i s = .next t ∧ Counted [i] s t := by
  obtain ⟨ep, hc, hep⟩ := clockCycle_quiet_link_idle p i s _ hq hph
    (serviceCycle_counts p _ (quietBefore i s) hs ht)
  refine ⟨_, hc, rfl, rfl, Nat.sub_add_cancel ht, hph, hep, fun h => h i (List.mem_singleton_self i),
    fun js => dataLevels_sampleLines i js _⟩

/-- Quiet cycles, no more than the timer, only count. -/
theorem clockRun_counts (p : Config.Timing) (is : List CycleIn) (s : State) (hq : ∀ j ∈ is, quiet j = true)
    (hph : s.cyc.lkPhase = .idle) (hs : s.cyc.svc ≠ .idle) (ht : is.length ≤ s.cyc.svcTimer) :
    ∃ t, clockRun p is s = .next t ∧ Counted is s t := by
  induction is generalizing s with
  | nil => exact ⟨s, rfl, rfl, rfl, rfl, hph, fun _ => rfl, fun _ => rfl, fun _ => rfl⟩
  | cons i is ih =>
    rw [List.length_cons] at ht
    obtain ⟨hqi, hqs⟩ := List.forall_mem_cons.mp hq
    obtain ⟨m, hm, cm⟩ := clockCycle_counts p i s hqi hph hs (by omega)
    have hmt : m.cyc.svcTimer + 1 = s.cyc.svcTimer := cm.timer
    obtain ⟨t, hrun, ct⟩ := ih m hqs cm.lkPhase (by rw [cm.svc]; exact hs) (by omega)
    refine ⟨t, by rw [clockRun_cons, hm, andThen_next, hrun], ?_, ct.svc.trans cm.svc, ?_, ct.lkPhase, ?_, ?_, ?_⟩
    · rw [ct.frame, cm.frame]
    · have := ct.timer
      rw [List.length_cons]
      omega
    · intro hl
      rw [ct.edge (by rw [cm.svc]; exact hl), cm.edge hl]
    · intro hb
      obtain ⟨hbi, hbs⟩ := List.forall_mem_cons.mp hb
      have hmb : m.busyPin = s.busyPin := cm.busy (by simpa using hbi)
      rw [ct.busy (by rw [hmb]; exact hbs), hmb]
    · intro js
      rw [ct.data js, cm.data (is ++ js), List.drop_drop, Nat.add_comm]
      rfl

/-- A run of cycles, then one cycle more. -/
theorem clockRun_snoc (p : Config.Timing) (is : List CycleIn) (k : CycleIn) (s m t : State)
    (hm : clockRun p is s = .next m) (ht : clockCycle p k m = .next t) : clockRun p (is ++ [k]) s = .next t := by
  rw [clockRun_append p is [k] s m hm, clockRun_cons, ht]
  rfl

/-! ### The first clause: a pending edge is taken, settles and is sampled -/

/-- A sample of an enabled interface ends in the pulse where the receiver is in ERROR, else in IDLE (R136). -/
theorem sampleEdge_svc (p : Config.Timing) (d : Bool) (s t : State) (hk : s.kbdEnabled = true)
    (hs : s.rxState < rxError) (ht : sampleEdge p d s = .next t) :
    t.cyc.svc = if t.rxState = rxError then .inhibit else .idle := by
  rw [sampleEdge, if_pos hk] at ht
  obtain ⟨u, hu, ht⟩ := (andThen_eq_next _ _ _).mp ht
  obtain rfl := Host.Outcome.next.inj ht
  rcases afterSample_cases p u (receive_rxState_le d s u (BitVec.le_of_lt hs) hu) with ⟨-, ha⟩ | ⟨he, ha⟩ <;> rw [ha]
  · exact (if_pos rfl).symm
  · exact (if_neg he).symm

/-- At the end of SETTLE the sample is the whole service part of a quiet cycle. -/
theorem serviceCycle_settled (p : Config.Timing) (d : Bool) (s : State) (hs : s.cyc.svc = .settle)
    (ht : s.cyc.svcTimer = 0) : serviceCycle p d s = sampleEdge p d s := by
  simp [serviceCycle, hs, ht]

/-- IDLE takes a pending edge (R136). -/
theorem serviceCycle_takes (p : Config.Timing) (d : Bool) (s : State) (hs : s.cyc.svc = .idle)
    (he : s.edgePending = true) : serviceCycle p d s =
      .next { s with edgePending := false, cyc := { s.cyc with svc := .settle, svcTimer := p.settleCycles } } := by
  simp [serviceCycle, hs, he]

/-- A quiet cycle at the end of SETTLE, while enabled, is the event-level edge in the view. -/
theorem clockCycle_samples (p : Config.Timing) (i : CycleIn) (s : State) (hq : quiet i = true)
    (hb : i.busy = s.busyPin) (hh : s.handoff = none) (hk : s.kbdEnabled = true) (hx : s.rxState < rxError)
    (hph : s.cyc.lkPhase = .idle) (hs : s.cyc.svc = .settle) (ht : s.cyc.svcTimer = 0) :
    ∃ t, clockCycle p i s = .next t ∧ edgeStep (s.cyc.dataSync.getLsbD 1) s.eventView = .next t.eventView ∧
      t.cyc.svc = if t.rxState = rxError then .inhibit else .idle := by
  have hsame : (quietBefore i s).viewWith [] = s.eventView := by rw [quietBefore, hb]; rfl
  obtain ⟨u, hu, -⟩ := sampleEdge_spec p (s.cyc.dataSync.getLsbD 1) (quietBefore i s) hh
  have hview := edgeStep_viewWith p (s.cyc.dataSync.getLsbD 1) [] (quietBefore i s) hk hx
  rw [hsame, hu] at hview
  obtain ⟨ep, hc, -⟩ := clockCycle_quiet_link_idle p i s u hq hph
    ((serviceCycle_settled p _ (quietBefore i s) hs ht).trans hu)
  exact ⟨_, hc, hview, sampleEdge_svc p _ (quietBefore i s) u hk hx hu⟩

/-- A quiet cycle in which IDLE takes a pending edge. -/
theorem clockCycle_takes (p : Config.Timing) (i : CycleIn) (s : State) (hq : quiet i = true)
    (hph : s.cyc.lkPhase = .idle) (hs : s.cyc.svc = .idle) (he : s.edgePending = true) :
    ∃ t, clockCycle p i s = .next t ∧
      t = { s with busyPin := i.busy, edgePending := t.edgePending, cyc := t.cyc } ∧
      t.cyc.svc = .settle ∧ t.cyc.svcTimer = p.settleCycles ∧ t.cyc.lkPhase = .idle ∧
      ∀ js, dataLevels js t.cyc = (dataLevels (i :: js) s.cyc).drop 1 := by
  obtain ⟨ep, hc, -⟩ := clockCycle_quiet_link_idle p i s _ hq hph (serviceCycle_takes p _ (quietBefore i s) hs he)
  exact ⟨_, hc, rfl, rfl, rfl, hph, fun js => dataLevels_sampleLines i js _⟩

/-- A pending edge is sampled in the last of SETTLE_CYCLES + 2 quiet cycles (R136). -/
theorem clockRun_pending_edge (p : Config.Timing) (i k : CycleIn) (is : List CycleIn) (s : State) (hi : CycleInv p s)
    (hk : s.kbdEnabled = true) (hs : s.cyc.svc = .idle) (he : s.edgePending = true)
    (hq : ∀ j ∈ i :: is ++ [k], quiet j = true ∧ j.busy = s.busyPin) (hn : is.length = p.settleCycles) :
    ∃ d t, clockRun p (i :: is ++ [k]) s = .next t ∧ edgeStep d s.eventView = .next t.eventView ∧
      t.cyc.svc = (if t.rxState = rxError then .inhibit else .idle) ∧
      (dataLevels (i :: is) s.cyc)[is.length + 1]? = some d := by
  have hqi := hq i (by simp)
  have hqk := hq k (by simp)
  have hqs : ∀ j ∈ is, quiet j = true ∧ j.busy = s.busyPin := fun j hj => hq j (by simp [hj])
  have hidle := hi.lkPhase_idle (hi.txBusy_false hk)
  have hx : s.rxState < rxError := by
    refine BitVec.lt_of_le_ne hi.rxState fun h => ?_
    rw [hi.rxError.mp h] at hs
    cases hs
  obtain ⟨m, hm, fm, msvc, mtimer, mph, mdata⟩ := clockCycle_takes p i s hqi.1 hidle hs he
  have mbusy : m.busyPin = s.busyPin := by rw [fm]; exact hqi.2
  obtain ⟨n, hn', cn⟩ := clockRun_counts p is m (fun j hj => (hqs j hj).1) mph (by rw [msvc]; decide)
    (by rw [mtimer, hn])
  have nbusy : n.busyPin = s.busyPin := by rw [cn.busy (by rw [mbusy]; exact fun j hj => (hqs j hj).2), mbusy]
  have fn : n = { s with edgePending := n.edgePending, cyc := n.cyc } := by
    rw [cn.frame, fm, nbusy]
  have ntimer : n.cyc.svcTimer = 0 := by
    have := cn.timer
    omega
  obtain ⟨t, ht, hedge, hsvc⟩ := clockCycle_samples p k n hqk.1 (hqk.2.trans nbusy.symm)
    (by rw [fn]; exact hi.handoff) (by rw [fn]; exact hk) (by rw [fn]; exact hx) cn.lkPhase (cn.svc.trans msvc) ntimer
  refine ⟨n.cyc.dataSync.getLsbD 1, t, ?_, ?_, hsvc, ?_⟩
  · have hpre : clockRun p (i :: is) s = .next n := by rw [clockRun_cons, hm, andThen_next, hn']
    exact clockRun_snoc p _ k s n t hpre ht
  · have hview : n.eventView = s.eventView := by rw [fn]; rfl
    rw [← hview, hedge]
  · have hlevels := cn.data []
    rw [List.append_nil, mdata, List.drop_drop] at hlevels
    have hhead := congrArg (·[0]?) hlevels
    simp only [List.getElem?_drop] at hhead
    rw [Nat.add_zero, Nat.add_comm 1] at hhead
    exact hhead.symm

/-- A list of one element more than `n` has a last one. -/
theorem exists_last {α : Type} (l : List α) (n : Nat) (h : l.length = n + 1) :
    ∃ m b, l = m ++ [b] ∧ m.length = n := by
  rcases List.eq_nil_or_concat l with rfl | ⟨m, b, rfl⟩
  · simp at h
  · exact ⟨m, b, List.concat_eq_append, by simpa using h⟩

/-- A list of at least two elements has a first and a last one. -/
theorem exists_first_last {α : Type} (l : List α) (n : Nat) (h : l.length = n + 2) :
    ∃ a m b, l = a :: m ++ [b] ∧ m.length = n := by
  cases l with
  | nil => simp at h
  | cons a l =>
    obtain ⟨m, b, rfl, hm⟩ := exists_last l n (Nat.succ.inj h)
    exact ⟨a, m, b, rfl, hm⟩

/-- The first clause of O55: the sampled bit is the data line's level two cycles before. -/
theorem pending_edge_sampled (p : Config.Timing) (is : List CycleIn) (s : State) (hi : CycleInv p s)
    (hk : s.kbdEnabled = true) (hs : s.cyc.svc = .idle) (he : s.edgePending = true)
    (hq : ∀ j ∈ is, quiet j = true ∧ j.busy = s.busyPin) (hn : is.length = p.settleCycles + 2) :
    ∃ d t, clockRun p is s = .next t ∧ edgeStep d s.eventView = .next t.eventView ∧
      t.cyc.svc = (if t.rxState = 11#4 then .inhibit else .idle) ∧
      (p.settleCycles = 0 → d = s.cyc.dataSync.getLsbD 0) ∧
      ∀ j, is[p.settleCycles - 1]? = some j → 0 < p.settleCycles → d = j.ps2Data := by
  obtain ⟨i, js, k, rfl, hjs⟩ := exists_first_last is _ hn
  obtain ⟨d, t, ht, hedge, hsvc, hd⟩ := clockRun_pending_edge p i k js s hi hk hs he hq hjs
  refine ⟨d, t, ht, hedge, hsvc, fun h0 => ?_, fun j hj hpos => ?_⟩
  · rw [hjs, h0] at hd
    exact (Option.some.inj hd).symm
  · obtain ⟨n, hn'⟩ : ∃ n, p.settleCycles = n + 1 := ⟨_, (Nat.succ_pred_eq_of_pos hpos).symm⟩
    have hlt : n < (i :: js).length := by simp [hjs, hn']
    rw [hn', Nat.add_sub_cancel, List.getElem?_append_left hlt] at hj
    have hd' : ((i :: js).map (·.ps2Data))[n]? = some d := by
      rw [hjs, hn'] at hd
      exact hd
    rw [List.getElem?_map, hj] at hd'
    exact (Option.some.inj hd').symm

/-! ### The second and third clauses: a rejected sample, and a sample while disabled -/

/-- The state rule raises the framing error of its cause (R64, R67, R68, R110). -/
theorem receive_framingError (d : Bool) (c : FramingCause) (s : State) (hh : s.handoff = none)
    (h : (c = .start ∧ s.rxState = 0#4 ∧ d = true) ∨
     (c = .parity ∧ s.rxState = 9#4 ∧ (popcount s.rxAcc + d.toNat) % 2 = 0) ∨
     (c = .stop ∧ s.rxState = 10#4 ∧ d = false)) : receive d s = .next (raiseFraming c s) := by
  rw [receive_eq d s hh]
  rcases h with ⟨rfl, hst, rfl⟩ | ⟨rfl, hst, hp⟩ | ⟨rfl, hst, rfl⟩
  · simp [hst, execRxStart]
  · have hodd : ¬ (xor8 s.rxAcc ^^ d) = true := fun hx => by
      have := (parity_odd s.rxAcc d).mpr hx
      omega
    simp [hst, execRxParity, hodd]
  · have hnone : (raiseFraming .stop s).handoff = none := hh
    simpa [hst, execRxStop] using runTranslator_none _ hnone

/-- A sample that breaks the frame begins the pulse (R136, R138). -/
theorem sampleEdge_framingError (p : Config.Timing) (d : Bool) (c : FramingCause) (s : State)
    (hk : s.kbdEnabled = true) (hr : receive d s = .next (raiseFraming c s)) :
    sampleEdge p d s = .next (beginInhibit p (raiseFraming c s)) := by
  rw [sampleEdge, if_pos hk, hr, andThen_next, afterSample, if_pos (by rw [raiseFraming_rxState]; decide)]

/-- The second clause of O55. -/
theorem framingError_begins_pulse (p : Config.Timing) (i : CycleIn) (s : State) (d : Bool) (c : FramingCause)
    (hi : CycleInv p s) (hk : s.kbdEnabled = true) (hs : s.cyc.svc = .settle) (ht : s.cyc.svcTimer = 0)
    (hq : quiet i = true) (hd : s.cyc.dataSync.getLsbD 1 = d)
    (h : (c = .start ∧ s.rxState = 0#4 ∧ d = true) ∨
     (c = .parity ∧ s.rxState = 9#4 ∧ (popcount s.rxAcc + d.toNat) % 2 = 0) ∨
     (c = .stop ∧ s.rxState = 10#4 ∧ d = false)) :
    ∃ t, clockCycle p i s = .next t ∧ t.cyc.svc = .inhibit ∧ t.cyc.svcTimer = p.inhibitCycles ∧
      t.rxState = 11#4 ∧ t.clkDriveLow = true ∧ t.trace = .inhibitPulse :: .framingError c :: s.trace ∧
      t.rxAcc = s.rxAcc ∧ t.kstate = s.kstate ∧ t.mods = s.mods ∧ t.buf = s.buf ∧ t.wr = s.wr := by
  have hsample := sampleEdge_framingError p d c (quietBefore i s) hk
    (receive_framingError d c (quietBefore i s) hi.handoff h)
  rw [← hd] at hsample
  obtain ⟨ep, hc, -⟩ := clockCycle_quiet_link_idle p i s _ hq (hi.lkPhase_idle (hi.txBusy_false hk))
    ((serviceCycle_settled p _ (quietBefore i s) hs ht).trans hsample)
  exact ⟨_, hc, rfl, rfl, rfl, rfl, rfl, rfl, rfl, rfl, rfl, rfl⟩

/-- The third clause of O55. -/
theorem disabled_sample_ends_service (p : Config.Timing) (i : CycleIn) (s : State) (hk : s.kbdEnabled = false)
    (hs : s.cyc.svc = .settle) (ht : s.cyc.svcTimer = 0) (hq : quiet i = true) :
    ∃ t, clockCycle p i s = .next t ∧ t.cyc.svc = .idle ∧ t.edgePending = s.edgePending ∧
      t.kbdEnabled = false ∧ t.clkDriveLow = s.clkDriveLow ∧ t.rxState = s.rxState ∧ t.rxAcc = s.rxAcc ∧
      t.kstate = s.kstate ∧ t.mods = s.mods ∧ t.buf = s.buf ∧ t.wr = s.wr ∧ t.rd = s.rd := by
  have hsample : sampleEdge p (s.cyc.dataSync.getLsbD 1) (quietBefore i s) =
      .next { quietBefore i s with cyc := { (quietBefore i s).cyc with svc := .idle } } :=
    if_neg (by rw [quietBefore, hk]; decide)
  obtain ⟨ep, hc, hep⟩ := clockCycle_quiet p i s _ hq
    ((serviceCycle_settled p _ (quietBefore i s) hs ht).trans hsample)
  refine ⟨_, hc, ?_⟩
  rw [hep (.inl hk), linkCycle_frame]
  exact ⟨rfl, rfl, hk, rfl, rfl, rfl, rfl, rfl, rfl, rfl, rfl⟩

/-! ### The fourth clause: the pulse, the blanking and the end -/

/-- What a recovery in progress leaves alone: everything but the busy pin, the receiver's state, the clock line and the
hidden registers. -/
def RecoveryFrame (s t : State) : Prop :=
  t = { s with busyPin := t.busyPin, rxState := t.rxState, clkDriveLow := t.clkDriveLow, cyc := t.cyc }

theorem RecoveryFrame.trans {s t u : State} (h1 : RecoveryFrame s t) (h2 : RecoveryFrame t u) : RecoveryFrame s u := by
  rw [RecoveryFrame] at h1 h2 ⊢
  rw [h2, h1]

/-- The pulse and the blanking go on while their timer runs. -/
theorem clockRun_phase (p : Config.Timing) (is : List CycleIn) (s : State) (hq : ∀ j ∈ is, quiet j = true)
    (hph : s.cyc.lkPhase = .idle) (hs : latchingPhase s.cyc.svc = false) (ht : is.length ≤ s.cyc.svcTimer) :
    ∃ t, clockRun p is s = .next t ∧ RecoveryFrame s t ∧ t.rxState = s.rxState ∧ t.clkDriveLow = s.clkDriveLow ∧
      t.cyc.lkPhase = .idle ∧ t.cyc.svc = s.cyc.svc ∧ t.cyc.svcTimer + is.length = s.cyc.svcTimer := by
  obtain ⟨t, hrun, ct⟩ := clockRun_counts p is s hq hph (fun h => by rw [h] at hs; cases hs) ht
  have ft := ct.frame
  rw [ct.edge hs] at ft
  exact ⟨t, hrun, by rw [ft]; rfl, by rw [ft], by rw [ft], ct.lkPhase, ct.svc, ct.timer⟩

/-- The cycle after the pulse's timer releases the line in AWAIT_START and begins the blanking (R136, R138). -/
theorem clockCycle_releases (p : Config.Timing) (i : CycleIn) (s : State) (hq : quiet i = true)
    (hph : s.cyc.lkPhase = .idle) (hs : s.cyc.svc = .inhibit) (ht : s.cyc.svcTimer = 0) :
    ∃ t, clockCycle p i s = .next t ∧ RecoveryFrame s t ∧ t.rxState = rxAwaitStart ∧ t.clkDriveLow = false ∧
      t.cyc.lkPhase = .idle ∧ t.cyc.svc = .blank ∧ t.cyc.svcTimer = p.blankCycles := by
  have hservice : serviceCycle p (s.cyc.dataSync.getLsbD 1) (quietBefore i s) =
      .next { quietBefore i s with
        clkDriveLow := false, rxState := rxAwaitStart,
        cyc := { (quietBefore i s).cyc with svc := .blank, svcTimer := p.blankCycles } } := by
    simp [serviceCycle, quietBefore, hs, ht]
  obtain ⟨ep, hc, hep⟩ := clockCycle_quiet_link_idle p i s _ hq hph hservice
  rw [hep (by rw [hs]; rfl)] at hc
  exact ⟨_, hc, rfl, rfl, rfl, hph, rfl, rfl⟩

/-- The cycle after the blanking's timer ends the service (R136). -/
theorem clockCycle_unblanks (p : Config.Timing) (i : CycleIn) (s : State) (hq : quiet i = true)
    (hph : s.cyc.lkPhase = .idle) (hs : s.cyc.svc = .blank) (ht : s.cyc.svcTimer = 0) :
    ∃ t, clockCycle p i s = .next t ∧ RecoveryFrame s t ∧ t.rxState = s.rxState ∧ t.clkDriveLow = s.clkDriveLow ∧
      t.cyc.svc = .idle := by
  have hservice : serviceCycle p (s.cyc.dataSync.getLsbD 1) (quietBefore i s) =
      .next { quietBefore i s with cyc := { (quietBefore i s).cyc with svc := .idle } } := by
    simp [serviceCycle, quietBefore, hs, ht]
  obtain ⟨ep, hc, hep⟩ := clockCycle_quiet_link_idle p i s _ hq hph hservice
  rw [hep (by rw [hs]; rfl)] at hc
  exact ⟨_, hc, rfl, rfl, rfl, rfl⟩

/-- The pulse lasts one cycle more than its timer. -/
theorem clockRun_pulse (p : Config.Timing) (is : List CycleIn) (s : State) (hq : ∀ j ∈ is, quiet j = true)
    (hph : s.cyc.lkPhase = .idle) (hs : s.cyc.svc = .inhibit) (hn : is.length = s.cyc.svcTimer + 1) :
    ∃ t, clockRun p is s = .next t ∧ RecoveryFrame s t ∧ t.rxState = rxAwaitStart ∧ t.clkDriveLow = false ∧
      t.cyc.lkPhase = .idle ∧ t.cyc.svc = .blank ∧ t.cyc.svcTimer = p.blankCycles := by
  obtain ⟨js, k, rfl, hjs⟩ := exists_last is _ hn
  obtain ⟨m, hm, fm, -, -, mph, msvc, mtimer⟩ :=
    clockRun_phase p js s (fun j hj => hq j (by simp [hj])) hph (by rw [hs]; rfl) (by omega)
  obtain ⟨t, ht, ft, rest⟩ := clockCycle_releases p k m (hq k (by simp)) mph (msvc.trans hs) (by omega)
  exact ⟨t, clockRun_snoc p js k s m t hm ht, fm.trans ft, rest⟩

/-- The blanking lasts one cycle more than its timer. -/
theorem clockRun_blanking (p : Config.Timing) (is : List CycleIn) (s : State) (hq : ∀ j ∈ is, quiet j = true)
    (hph : s.cyc.lkPhase = .idle) (hs : s.cyc.svc = .blank) (hn : is.length = s.cyc.svcTimer + 1) :
    ∃ t, clockRun p is s = .next t ∧ RecoveryFrame s t ∧ t.rxState = s.rxState ∧ t.clkDriveLow = s.clkDriveLow ∧
      t.cyc.svc = .idle := by
  obtain ⟨js, k, rfl, hjs⟩ := exists_last is _ hn
  obtain ⟨m, hm, fm, mrx, mclk, mph, msvc, mtimer⟩ :=
    clockRun_phase p js s (fun j hj => hq j (by simp [hj])) hph (by rw [hs]; rfl) (by omega)
  obtain ⟨t, ht, ft, trx, tclk, tsvc⟩ := clockCycle_unblanks p k m (hq k (by simp)) mph (msvc.trans hs) (by omega)
  exact ⟨t, clockRun_snoc p js k s m t hm ht, fm.trans ft, trx.trans mrx, tclk.trans mclk, tsvc⟩

/-- Where the recovery stands after a number of quiet cycles: in the pulse, in the blanking, or at its end. -/
theorem clockRun_recovery (p : Config.Timing) (is : List CycleIn) (s : State) (hq : ∀ j ∈ is, quiet j = true)
    (hph : s.cyc.lkPhase = .idle) (hs : s.cyc.svc = .inhibit)
    (hn : is.length ≤ s.cyc.svcTimer + 1 + p.blankCycles + 1) :
    ∃ t, clockRun p is s = .next t ∧ RecoveryFrame s t ∧
      ((is.length ≤ s.cyc.svcTimer ∧ t.cyc.svc = .inhibit ∧ t.rxState = s.rxState ∧ t.clkDriveLow = s.clkDriveLow) ∨
       (s.cyc.svcTimer < is.length ∧ t.rxState = rxAwaitStart ∧ t.clkDriveLow = false ∧
         ((is.length ≤ s.cyc.svcTimer + 1 + p.blankCycles ∧ t.cyc.svc = .blank) ∨
          (is.length = s.cyc.svcTimer + 1 + p.blankCycles + 1 ∧ t.cyc.svc = .idle)))) := by
  rcases Nat.lt_or_ge s.cyc.svcTimer is.length with hlt | hle
  · -- the pulse is over after the first `svc_timer + 1` cycles
    obtain ⟨m, hm, fm, mrx, mclk, mph, msvc, mtimer⟩ := clockRun_pulse p (is.take (s.cyc.svcTimer + 1)) s
      (fun j hj => hq j (List.mem_of_mem_take hj)) hph hs (by rw [List.length_take]; omega)
    have hqr : ∀ j ∈ is.drop (s.cyc.svcTimer + 1), quiet j = true := fun j hj => hq j (List.mem_of_mem_drop hj)
    have hrest : (is.drop (s.cyc.svcTimer + 1)).length = is.length - (s.cyc.svcTimer + 1) := List.length_drop
    have hrun : clockRun p is s = clockRun p (is.drop (s.cyc.svcTimer + 1)) m := by
      conv_lhs => rw [← List.take_append_drop (s.cyc.svcTimer + 1) is]
      exact clockRun_append p _ _ s m hm
    rw [hrun]
    rcases Nat.lt_or_ge (s.cyc.svcTimer + 1 + p.blankCycles) is.length with hend | hblank
    · obtain ⟨t, ht, ft, trx, tclk, tsvc⟩ := clockRun_blanking p _ m hqr mph msvc (by omega)
      exact ⟨t, ht, fm.trans ft, .inr ⟨hlt, trx.trans mrx, tclk.trans mclk, .inr ⟨by omega, tsvc⟩⟩⟩
    · obtain ⟨t, ht, ft, trx, tclk, -, tsvc, -⟩ := clockRun_phase p _ m hqr mph (by rw [msvc]; rfl) (by omega)
      exact ⟨t, ht, fm.trans ft, .inr ⟨hlt, trx.trans mrx, tclk.trans mclk, .inl ⟨hblank, tsvc.trans msvc⟩⟩⟩
  · obtain ⟨t, ht, ft, trx, tclk, -, tsvc, -⟩ := clockRun_phase p is s hq hph (by rw [hs]; rfl) hle
    exact ⟨t, ht, ft, .inl ⟨hle, tsvc.trans hs, trx, tclk⟩⟩

/-- The fourth clause of O55. -/
theorem recovery_completes (p : Config.Timing) (is : List CycleIn) (s : State) (hi : CycleInv p s)
    (hs : s.cyc.svc = .inhibit) (hq : ∀ j ∈ is, quiet j = true)
    (hn : is.length ≤ s.cyc.svcTimer + 1 + p.blankCycles + 1) :
    ∃ t, clockRun p is s = .next t ∧ t.edgePending = s.edgePending ∧ t.kbdEnabled = true ∧ t.rxAcc = s.rxAcc ∧
      t.kstate = s.kstate ∧ t.mods = s.mods ∧ t.buf = s.buf ∧ t.wr = s.wr ∧ t.rd = s.rd ∧ t.trace = s.trace ∧
      (is.length ≤ s.cyc.svcTimer → t.cyc.svc = .inhibit ∧ t.rxState = 11#4 ∧ t.clkDriveLow = true) ∧
      (s.cyc.svcTimer < is.length → t.rxState = 0#4 ∧ t.clkDriveLow = false) ∧
      (s.cyc.svcTimer < is.length → is.length ≤ s.cyc.svcTimer + 1 + p.blankCycles → t.cyc.svc = .blank) ∧
      (is.length = s.cyc.svcTimer + 1 + p.blankCycles + 1 → t.cyc.svc = .idle) := by
  have hk := hi.recovering (.inl hs)
  have hrx : s.rxState = 11#4 := hi.rxError.mpr hs
  have hclk : s.clkDriveLow = true := by rw [hi.clkDriveLow, hs]; simp
  obtain ⟨t, ht, ft, hstage⟩ := clockRun_recovery p is s hq (hi.lkPhase_idle (hi.txBusy_false hk)) hs hn
  refine ⟨t, ht, ?_⟩
  rw [ft]
  refine ⟨rfl, hk, rfl, rfl, rfl, rfl, rfl, rfl, rfl, ?_⟩
  rcases hstage with ⟨hle, tsvc, trx, tclk⟩ | ⟨hlt, trx, tclk, ⟨hle, tsvc⟩ | ⟨he, tsvc⟩⟩
  · exact ⟨fun _ => ⟨tsvc, trx.trans hrx, tclk.trans hclk⟩, fun h => by omega, fun h => by omega, fun h => by omega⟩
  · exact ⟨fun h => by omega, fun _ => ⟨trx, tclk⟩, fun _ _ => tsvc, fun h => by omega⟩
  · exact ⟨fun h => by omega, fun _ => ⟨trx, tclk⟩, fun _ h => by omega, fun _ => tsvc⟩

/-- Settles O55: the counted phases by induction on the cycles, the sample by the view of the edge (O53's lemma). -/
theorem edgeServiceCompletes : Obligations.EdgeServiceCompletes :=
  ⟨pending_edge_sampled, framingError_begins_pulse, disabled_sample_ends_service, recovery_completes⟩

end Sys2Proof.Machine
end

section
/-! PROOFS. Reset meets the spec's values and the invariant of the event level (R16, R123). -/

namespace Sys2Proof.Machine

/-- Settles O1: every value is written out in `State.reset` and `CycleRegs.reset`. -/
theorem resetLeavesSpecValues : Obligations.ResetLeavesSpecValues := by
  unfold Obligations.ResetLeavesSpecValues
  decide

/-- The reset input leaves a state of the event level that meets its invariant. -/
theorem eventInv_resetBlock (s : State) (h : s.level = .event) : EventInv (resetBlock s) where
  level := h
  handoff := rfl
  rxState := (by decide : rxAwaitStart ≤ rxStop)
  rxAcc hlow := absurd hlow (by decide : ¬ rxBit0 ≤ rxAwaitStart)
  edgePending := rfl
  clkDriveLow := rfl
  txBusy := rfl
  svc := rfl
  lkPhase := rfl

/-- Settles O46: `State.reset` is what the reset input leaves of itself. -/
theorem resetMeetsEventInv : Obligations.ResetMeetsEventInv := eventInv_resetBlock State.reset rfl

end Sys2Proof.Machine
end

section
/-! PROOFS. Buffer entries outside `rd .. wr - 1` are never observable (R24, R94): every instruction takes two states
alike but for such entries to two such states. Only RXREAD reads an entry, and only an unread one; only a push writes
one, the same in both. -/

namespace Sys2Proof.Machine

/-! ### Buffers alike in their unread entries -/

/-- Two buffers have the same entries in `rd .. wr - 1`. -/
def unreadAlike (wr rd : Cursor) (b c : Vector Byte Config.cap) : Prop :=
  ∀ k : Cursor, k < occupancy wr rd → bufRead b (rd + k) = bufRead c (rd + k)

theorem sameUnread_refl (s : State) : sameUnread s s := ⟨rfl, fun _ _ => rfl⟩

/-- `t` is `s` with a buffer that is alike in the unread entries. -/
theorem sameUnread_iff (s t : State) :
    sameUnread s t ↔ ∃ c, t = { s with buf := c } ∧ unreadAlike s.wr s.rd s.buf c := by
  constructor
  · exact fun h => ⟨t.buf, h⟩
  · rintro ⟨c, rfl, h⟩
    exact ⟨rfl, h⟩

/-- A buffer that is not empty has an unread entry (R89). -/
theorem occupancy_pos (wr rd : Cursor) (h : wr ≠ rd) : 0#3 < occupancy wr rd := by
  revert wr rd
  decide

/-- What is unread after reading an entry was unread before it. -/
theorem lt_occupancy_of_read (wr rd k : Cursor) (h : wr ≠ rd) (hk : k < occupancy wr (rd + 1#3)) :
    1#3 + k < occupancy wr rd := by
  revert wr rd k
  decide

/-- What is unread after a push is the entry pushed or was unread before. If the push overflows nothing is unread. -/
theorem lt_occupancy_of_push (wr rd k : Cursor) (h : wr ≠ rd + k) (hk : k < occupancy (wr + 1#3) rd) :
    k < occupancy wr rd := by
  revert wr rd k
  decide

/-- An empty buffer has no unread entries. -/
theorem unreadAlike_empty (b c : Vector Byte Config.cap) : unreadAlike 0#3 0#3 b c :=
  fun _ hk => absurd hk BitVec.not_lt_zero

/-- The next entry to read is an unread one. -/
theorem unreadAlike_next {wr rd : Cursor} {b c : Vector Byte Config.cap} (h : unreadAlike wr rd b c) (hne : wr ≠ rd) :
    bufRead b rd = bufRead c rd := by
  simpa using h 0#3 (occupancy_pos wr rd hne)

/-- Reading an entry leaves the later ones unread. -/
theorem unreadAlike_read {wr rd : Cursor} {b c : Vector Byte Config.cap} (h : unreadAlike wr rd b c) (hne : wr ≠ rd) :
    unreadAlike wr (rd + 1#3) b c := by
  intro k hk
  rw [BitVec.add_assoc]
  exact h _ (lt_occupancy_of_read wr rd k hne hk)

/-- Buffers alike in their unread entries are so after the same push. -/
theorem unreadAlike_push {wr rd : Cursor} {b c : Vector Byte Config.cap} (v : Byte) (h : unreadAlike wr rd b c) :
    unreadAlike (wr + 1#3) rd (bufWrite b wr v) (bufWrite c wr v) := by
  intro k hk
  by_cases he : wr = rd + k
  · rw [← he, bufRead_bufWrite_same, bufRead_bufWrite_same]
  · rw [bufRead_bufWrite_other _ _ _ _ he, bufRead_bufWrite_other _ _ _ _ he]
    exact h k (lt_occupancy_of_push wr rd k he hk)

/-- A push keeps two states alike (R90). -/
theorem sameUnread_push (v : Byte) {s t : State} (h : sameUnread s t) : sameUnread (push v s) (push v t) := by
  obtain ⟨c, rfl, halike⟩ := (sameUnread_iff s t).mp h
  exact ⟨rfl, unreadAlike_push v halike⟩

/-! ### One instruction -/

/-- A byte that gives no character keeps two states alike (R82). -/
theorem sameUnread_noCharacter (b : Byte) {s t : State} (h : sameUnread s t) :
    sameUnread (noCharacter b s) (noCharacter b t) := by
  obtain ⟨c, rfl, halike⟩ := (sameUnread_iff s t).mp h
  have hmods : sameUnread { s with mods := setModifier s.mods (modmap b) }
      { s with buf := c, mods := setModifier s.mods (modmap b) } := ⟨rfl, halike⟩
  simp only [noCharacter]
  split
  · exact sameUnread_push _ hmods
  · exact hmods

/-- Every instruction takes two states alike to two outcomes alike. -/
theorem exec_sameUnread (i : Instr) {s t : State} (h : sameUnread s t) :
    Res.rel sameUnread (exec i s) (exec i t) := by
  obtain ⟨c, rfl, halike⟩ := (sameUnread_iff s t).mp h
  cases i with
  | rxread =>
    by_cases he : s.wr = s.rd
    · simp only [exec, execRxread, if_pos he]
      exact ⟨rfl, halike⟩
    · simp only [exec, execRxread, if_neg he, unreadAlike_next halike he]
      exact ⟨rfl, unreadAlike_read halike he⟩
  | kbdon => exact ⟨rfl, unreadAlike_empty _ _⟩
  | linktx a f =>
    simp only [exec, execLinktx, shiftEdges_eq, linkForbidden]
    split
    · rfl
    · split <;> exact ⟨rfl, halike⟩
  | rxStart d => cases d <;> exact ⟨rfl, halike⟩
  | rxStop d => cases d <;> exact ⟨rfl, halike⟩
  | rxParity d =>
    simp only [exec, execRxParity]
    split <;> exact ⟨rfl, halike⟩
  | trNormalOther b =>
    simp only [exec, execTrNormalOther]
    split
    · exact sameUnread_push _ h
    · exact sameUnread_noCharacter b h
  | _ => exact ⟨rfl, halike⟩

/-! ### One step -/

/-- Sequences whose parts keep a relation keep it. -/
theorem andThen_rel {R : State → State → Prop} {o o' : Res} {f g : State → Res} (ho : Res.rel R o o')
    (hf : ∀ s t, R s t → Res.rel R (f s) (g t)) : Res.rel R (andThen o f) (andThen o' g) := by
  cases o with
  | next s =>
    cases o' with
    | next t => exact hf s t ho
    | fault | refused => exact ho.elim
  | fault f =>
    cases o' with
    | fault g => exact ho
    | next | refused => exact ho.elim
  | refused f =>
    cases o' with
    | refused g => exact ho
    | next | fault => exact ho.elim

/-- The translator's step keeps two states alike. -/
theorem runTranslator_sameUnread {s t : State} (h : sameUnread s t) :
    Res.rel sameUnread (runTranslator s) (runTranslator t) := by
  obtain ⟨c, rfl, halike⟩ := (sameUnread_iff s t).mp h
  simp only [runTranslator]
  split
  · exact h
  · exact exec_sameUnread _ ⟨rfl, halike⟩

/-- The final test of rule R63 keeps two states alike. -/
theorem recoverIfError_sameUnread {s t : State} (h : sameUnread s t) :
    sameUnread (recoverIfError s) (recoverIfError t) := by
  obtain ⟨c, rfl, halike⟩ := (sameUnread_iff s t).mp h
  simp only [recoverIfError]
  split <;> exact ⟨rfl, halike⟩

/-- An edge keeps two states alike (R63). -/
theorem edgeStep_sameUnread (d : Bool) {s t : State} (h : sameUnread s t) :
    Res.rel sameUnread (edgeStep d s) (edgeStep d t) := by
  have hreceive : Res.rel sameUnread (receive d s) (receive d t) := by
    obtain ⟨c, rfl, -⟩ := (sameUnread_iff s t).mp h
    exact andThen_rel (exec_sameUnread _ h) fun _ _ => runTranslator_sameUnread
  obtain ⟨c, rfl, -⟩ := (sameUnread_iff s t).mp h
  simp only [edgeStep]
  split
  · exact andThen_rel hreceive fun _ _ => recoverIfError_sameUnread
  · exact h

/-- A stimulus keeps two states alike. -/
theorem applyEvent_sameUnread (e : Event) {s t : State} (h : sameUnread s t) :
    Res.rel sameUnread (applyEvent e s) (applyEvent e t) := by
  cases e with
  | edge d => exact edgeStep_sameUnread d h
  | cmd w => exact exec_sameUnread _ h
  | pin b =>
    obtain ⟨c, rfl, halike⟩ := (sameUnread_iff s t).mp h
    exact ⟨rfl, halike⟩
  | reset =>
    obtain ⟨c, rfl, -⟩ := (sameUnread_iff s t).mp h
    exact sameUnread_refl (resetBlock s)

/-- A step of the event level keeps two states alike: a byte still handed over is translated, and otherwise the next
stimulus is applied. -/
theorem eventStep_sameUnread {s t : State} (h : sameUnread s t) :
    Res.rel sameUnread (eventStep s) (eventStep t) := by
  obtain ⟨c, rfl, halike⟩ := (sameUnread_iff s t).mp h
  simp only [eventStep]
  split
  · exact runTranslator_sameUnread h
  · split
    · exact h
    · exact applyEvent_sameUnread _ ⟨rfl, halike⟩

/-- At the event level `step` is the step of that level (log 1). -/
theorem step_eq_eventStep (s : State) (h : s.level = .event) : step s = eventStep s := by rw [step, h]

/-- Settles O45: two states alike are at the same level, and a step of the event level keeps them alike. -/
theorem unreadEntriesNeverShow : Obligations.UnreadEntriesNeverShow := by
  intro s t hl h
  have hlt : t.level = .event := by rw [h.1]; exact hl
  rw [step_eq_eventStep s hl, step_eq_eventStep t hlt]
  exact eventStep_sameUnread h

end Sys2Proof.Machine
end

section
/-! PROOFS. The accumulator's bits that no data bit has reached are zero, and every edge keeps them so (R65). -/

namespace Sys2Proof.Machine

/-- In BITn the accumulator's bits that no data bit has reached are zero. -/
def AccZeros (st : BitVec 4) (acc : Byte) : Prop :=
  rxBit0 ≤ st → st ≤ rxBit7 → acc <<< (st.toNat - 1) = 0#8

/-- Nothing is claimed in AWAIT_START. -/
theorem accZeros_awaitStart (acc : Byte) : AccZeros rxAwaitStart acc :=
  fun hlow => absurd hlow (by decide)

/-- Nothing is claimed after the data bits. -/
theorem accZeros_of_gt {st : BitVec 4} (acc : Byte) (h : rxBit7 < st) : AccZeros st acc :=
  fun _ hhigh => absurd hhigh (BitVec.not_le.mpr h)

/-- A data bit reaches one bit more (R65, R66). -/
theorem accZeros_shiftAcc (d : Bool) (st : BitVec 4) (acc : Byte) (hlow : rxBit0 ≤ st) (hhigh : st ≤ rxBit7)
    (h : AccZeros st acc) : AccZeros (st + 1#4) (shiftAcc d acc) := by
  by_cases h8 : st = rxBit7
  · subst h8
    exact accZeros_of_gt _ (by decide)
  · have hle : st ≤ 7#4 := by
      have := BitVec.lt_of_le_ne hhigh h8
      simp only [rxBit7] at this
      bv_omega
    exact fun _ _ => shiftAcc_zeros st acc d hlow hle (h hlow hhigh)

/-- A receiver's state rule followed by the translator leaves the receiver as the state rule does (R75). -/
theorem andThen_runTranslator_rx (o : Res) (t : State) (ht : andThen o runTranslator = .next t) :
    ∃ u, o = .next u ∧ t.rxState = u.rxState ∧ t.rxAcc = u.rxAcc := by
  obtain ⟨u, hu, hut⟩ := (andThen_eq_next _ _ _).mp ht
  obtain ⟨t', ht', ft⟩ := runTranslator_spec u
  obtain rfl := Host.Outcome.next.inj (ht'.symm.trans hut)
  exact ⟨u, hu, by rw [ft], by rw [ft]⟩

/-- The state rule with the translator's step keeps those bits zero. -/
theorem receive_accZeros (d : Bool) (s t : State) (hh : s.handoff = none) (h : AccZeros s.rxState s.rxAcc)
    (ht : receive d s = .next t) : AccZeros t.rxState t.rxAcc := by
  rw [receive_eq d s hh] at ht
  split_ifs at ht with h0 h8
  · obtain rfl := Host.Outcome.next.inj ht
    cases d with
    | true => exact accZeros_of_gt _ (by decide : rxBit7 < rxError)
    | false => exact fun _ _ => rfl
  · obtain rfl := Host.Outcome.next.inj ht
    have hlow : rxBit0 ≤ s.rxState := by simp only [rxBit0]; bv_omega
    exact accZeros_shiftAcc d s.rxState s.rxAcc hlow h8 h
  · obtain rfl := Host.Outcome.next.inj ht
    split
    · exact accZeros_of_gt _ (by decide : rxBit7 < rxStop)
    · exact accZeros_of_gt _ (by decide : rxBit7 < rxError)
  · obtain ⟨u, hu, hst, hacc⟩ := andThen_runTranslator_rx _ t ht
    obtain rfl := Host.Outcome.next.inj hu
    rw [hst, hacc]
    cases d with
    | true => exact accZeros_awaitStart _
    | false => exact accZeros_of_gt _ (by decide : rxBit7 < rxError)
  · obtain rfl := Host.Outcome.next.inj ht
    exact accZeros_of_gt _ (BitVec.not_le.mp h8)
  · obtain rfl := Host.Outcome.next.inj ht
    exact accZeros_of_gt _ (by decide : rxBit7 < rxError)

end Sys2Proof.Machine
end

section
/-! PROOFS. The invariant of the event level is kept (R17, R20, R21, R27, R65). -/

namespace Sys2Proof.Machine

/-- A command that completes is KBDOFF, KBDON, or leaves the receiver, the clock line and the keyboard bit alone
(R97, R98). -/
theorem exec_cmd_inputSide (i : Instr) (s t : State) (hf : (encode i).format = .hostCmd) (ht : exec i s = .next t) :
    (endsService (some i) = false ∧
      t = { s with rd := t.rd, outAddr := t.outAddr, outFlags := t.outFlags, linkSr := t.linkSr, rsp := t.rsp,
                   trace := t.trace }) ∨
    (isKbdoff (some i) = true ∧
      t = { s with kbdEnabled := false, clkDriveLow := true, rsp := t.rsp, trace := t.trace }) ∨
    (isKbdon (some i) = true ∧
      t = { s with rxState := rxAwaitStart, rxAcc := 0x00#8, kbdEnabled := true, edgePending := false,
                   clkDriveLow := false, kstate := t.kstate, mods := t.mods, wr := t.wr, rd := t.rd, rsp := t.rsp,
                   trace := t.trace }) := by
  cases i with
  | kbdoff =>
    obtain rfl := Host.Outcome.next.inj ht
    exact .inr (.inl ⟨rfl, rfl⟩)
  | kbdon =>
    obtain rfl := Host.Outcome.next.inj ht
    exact .inr (.inr ⟨rfl, rfl⟩)
  | linktx | nop | rxread | rxcount | linkbusy | status | reservedOp | reservedRsv =>
    refine .inl ⟨rfl, ?_⟩
    rcases exec_cmd_writes _ s t hf ht with ⟨-, ft⟩ | ft | ⟨hk, -⟩ | ⟨hk, -⟩ | ⟨-, ft⟩
    · rw [ft]
    · rw [ft]
    · cases hk
    · cases hk
    · rw [ft]
  | _ => simp [encode, EventWord.format] at hf

/-- The invariant is kept where the model's own fields and the hidden registers are, if the receiver, the accumulator
and the clock line are again as it says. -/
theorem EventInv.of_kept {s t : State} (h : EventInv s) (hlevel : t.level = s.level) (hhandoff : t.handoff = none)
    (hcyc : t.cyc = s.cyc) (hbusy : t.txBusy = s.txBusy) (hedge : t.edgePending = false)
    (hrx : t.rxState ≤ rxStop) (hacc : AccZeros t.rxState t.rxAcc) (hclk : t.clkDriveLow = !t.kbdEnabled) :
    EventInv t where
  level := hlevel.trans h.level
  handoff := hhandoff
  rxState := hrx
  rxAcc := hacc
  edgePending := hedge
  clkDriveLow := hclk
  txBusy := hbusy.trans h.txBusy
  svc := hcyc ▸ h.svc
  lkPhase := hcyc ▸ h.lkPhase

/-- A named receiver state other than ERROR is at most STOP (R17). -/
theorem rxState_le_stop (st : BitVec 4) (hle : st ≤ rxError) (hne : st ≠ rxError) : st ≤ rxStop := by
  revert st
  decide

/-- An edge keeps the invariant: after a framing error recovery leaves the receiver in AWAIT_START and the clock line
released (R61, R63, R71). -/
theorem edgeStep_eventInv (d : Bool) (s t : State) (h : EventInv s) (ht : edgeStep d s = .next t) : EventInv t := by
  unfold edgeStep at ht
  split at ht
  case isFalse => exact Host.Outcome.next.inj ht ▸ h
  case isTrue hk =>
    obtain ⟨u, hu, hrec⟩ := (andThen_eq_next _ _ _).mp ht
    obtain rfl := Host.Outcome.next.inj hrec
    obtain ⟨u', hu', fu⟩ := receive_spec d s
    obtain rfl := Host.Outcome.next.inj (hu'.symm.trans hu)
    have hacc := receive_accZeros d s u' h.handoff h.rxAcc hu
    have hle := receive_rxState_le d s u' (BitVec.le_trans h.rxState (by decide)) hu
    rcases recoverIfError_cases u' with ⟨-, hrec⟩ | ⟨hne, hrec⟩ <;> rw [hrec, fu]
    · exact h.of_kept rfl rfl rfl rfl h.edgePending (by decide : rxAwaitStart ≤ rxStop) (accZeros_awaitStart _)
        (congrArg not hk).symm
    · exact h.of_kept rfl rfl rfl rfl h.edgePending (rxState_le_stop _ hle hne) hacc h.clkDriveLow

/-- A command keeps the invariant: KBDOFF and KBDON drive the clock line as they set `kbd_enabled`, and KBDON puts the
receiver in AWAIT_START (R97, R98). -/
theorem exec_cmd_eventInv (i : Instr) (s t : State) (hf : (encode i).format = .hostCmd) (h : EventInv s)
    (ht : exec i s = .next t) : EventInv t := by
  rcases exec_cmd_inputSide i s t hf ht with ⟨-, ft⟩ | ⟨-, ft⟩ | ⟨-, ft⟩ <;> rw [ft]
  · exact h.of_kept rfl h.handoff rfl rfl h.edgePending h.rxState h.rxAcc h.clkDriveLow
  · exact h.of_kept rfl h.handoff rfl rfl h.edgePending h.rxState h.rxAcc rfl
  · exact h.of_kept rfl h.handoff rfl rfl rfl (by decide : rxAwaitStart ≤ rxStop) (accZeros_awaitStart _) rfl

/-- A stimulus keeps the invariant. -/
theorem applyEvent_eventInv (e : Event) (s t : State) (h : EventInv s) (ht : applyEvent e s = .next t) :
    EventInv t := by
  cases e with
  | edge d => exact edgeStep_eventInv d s t h ht
  | cmd w => exact exec_cmd_eventInv _ s t (format_decodeCmd w) h ht
  | pin b =>
    obtain rfl := Host.Outcome.next.inj ht
    exact h.of_kept rfl h.handoff rfl rfl h.edgePending h.rxState h.rxAcc h.clkDriveLow
  | reset =>
    obtain rfl := Host.Outcome.next.inj ht
    exact eventInv_resetBlock s h.level

/-- Settles O47, by the stimulus at the head of the list. -/
theorem eventInvKept : Obligations.EventInvKept := by
  intro s t h ht
  rw [step_event s h.level h.handoff] at ht
  split at ht
  · exact Host.Outcome.next.inj ht ▸ h
  · next e es he =>
    have hes : EventInv { s with events := es } :=
      h.of_kept rfl h.handoff rfl rfl h.edgePending h.rxState h.rxAcc h.clkDriveLow
    exact applyEvent_eventInv e _ t hes ht

end Sys2Proof.Machine
end

section
/-! PROOFS. The invariant of the cycle level is kept. It falls into what it says of the input side, which the command
and the edge service write, and of the link side, which LINKTX and the sequencer write (R21, R130, R134 to R141). -/

namespace Sys2Proof.Machine

/-! ### The two sides of the invariant -/

/-- The registers the invariant speaks of on the input side. -/
structure InputSide where
  handoff : Option Byte
  rxState : BitVec 4
  rxAcc : Byte
  clkDriveLow : Bool
  kbdEnabled : Bool
  svc : Svc

def State.inputSide (s : State) : InputSide :=
  { handoff := s.handoff, rxState := s.rxState, rxAcc := s.rxAcc, clkDriveLow := s.clkDriveLow,
    kbdEnabled := s.kbdEnabled, svc := s.cyc.svc }

/-- The registers it speaks of on the link side. -/
structure LinkSide where
  txBusy : Bool
  lkPhase : LkPhase
  lkCount : BitVec 5
  lkDiv : Nat
  srClk : Bool
  srLatch : Bool

def State.linkSide (s : State) : LinkSide :=
  { txBusy := s.txBusy, lkPhase := s.cyc.lkPhase, lkCount := s.cyc.lkCount, lkDiv := s.cyc.lkDiv,
    srClk := s.cyc.srClk, srLatch := s.cyc.srLatch }

/-- What the invariant says of the input side (R21, R136, R138). -/
structure InputInv (v : InputSide) : Prop where
  handoff : v.handoff = none
  rxState : v.rxState ≤ rxError
  rxError : v.rxState = rxError ↔ v.svc = .inhibit
  rxAcc : AccZeros v.rxState v.rxAcc
  clkDriveLow : v.clkDriveLow = (!v.kbdEnabled || v.svc == .inhibit)
  recovering : v.svc = .inhibit ∨ v.svc = .blank → v.kbdEnabled = true
  blank : v.svc = .blank → v.rxState = rxAwaitStart

/-- What it says of the link side (R27, R56, R134, R141). -/
structure LinkInv (p : Config.Timing) (v : LinkSide) : Prop where
  txBusy : v.txBusy = true ↔ v.lkPhase ≠ .idle
  lkCount : v.lkCount ≤ 16#5
  lkLow : v.lkPhase = .shift → v.srClk = false → v.lkCount < 16#5
  lkDiv : v.lkDiv ≤ p.shiftDiv
  srClk : v.srClk = true → v.lkPhase = .shift
  srLatch : v.srLatch = false → v.lkPhase = .latch

/-- The invariant is its two sides, the level of the run, and that the sides exclude each other (R112, R130). -/
theorem cycleInv_iff (p : Config.Timing) (s : State) : CycleInv p s ↔
    s.level = .cycle ∧ InputInv s.inputSide ∧ LinkInv p s.linkSide ∧ (s.txBusy = true → s.kbdEnabled = false) := by
  constructor
  · exact fun h => ⟨h.level,
      ⟨h.handoff, h.rxState, h.rxError, h.rxAcc, h.clkDriveLow, h.recovering, h.blank⟩,
      ⟨h.txBusy, h.lkCount, h.lkLow, h.lkDiv, h.srClk, h.srLatch⟩, h.exclusive⟩
  · rintro ⟨hlevel, hin, hlink, hex⟩
    exact ⟨hlevel, hin.handoff, hin.rxState, hin.rxError, hin.rxAcc, hin.clkDriveLow, hin.recovering, hin.blank,
      hlink.txBusy, hex, hlink.lkCount, hlink.lkLow, hlink.lkDiv, hlink.srClk, hlink.srLatch⟩

/-- Outside the pulse the receiver is in a named state other than ERROR (R138). -/
theorem InputInv.rxState_lt {v : InputSide} (h : InputInv v) (hs : v.svc ≠ .inhibit) : v.rxState < Machine.rxError :=
  BitVec.lt_of_le_ne h.rxState fun he => hs (h.rxError.mp he)

/-- Outside the pulse the clock line is low exactly while disabled (R21). -/
theorem InputInv.clkDriveLow_eq {v : InputSide} (h : InputInv v) (hs : v.svc ≠ .inhibit) :
    v.clkDriveLow = !v.kbdEnabled := by
  rw [h.clkDriveLow, beq_eq_false_iff_ne.mpr hs, Bool.or_false]

/-- A phase that latches falls is neither the pulse nor the blanking time (R135). -/
theorem latchingPhase_iff (c : Svc) : latchingPhase c = true ↔ c ≠ .inhibit ∧ c ≠ .blank := by
  cases c <;> decide

/-- What KBDOFF and KBDON leave in every phase of the service: the clock line is low exactly while disabled, and in IDLE
and SETTLE the receiver is not in ERROR (R138). -/
structure Bracketed (v : InputSide) : Prop where
  handoff : v.handoff = none
  rxState : latchingPhase v.svc = true → v.rxState < rxError
  rxAcc : AccZeros v.rxState v.rxAcc
  clkDriveLow : v.clkDriveLow = !v.kbdEnabled

/-- In IDLE and SETTLE the invariant says no more than this. -/
theorem Bracketed.inputInv {v : InputSide} (h : Bracketed v) (hs : latchingPhase v.svc = true) : InputInv v := by
  obtain ⟨hinhibit, hblank⟩ := (latchingPhase_iff _).mp hs
  exact
    { handoff := h.handoff
      rxState := BitVec.le_of_lt (h.rxState hs)
      rxError := iff_of_false (BitVec.ne_of_lt (h.rxState hs)) hinhibit
      rxAcc := h.rxAcc
      clkDriveLow := by simp [h.clkDriveLow, hinhibit]
      recovering := fun hrec => (hrec.elim hinhibit hblank).elim
      blank := fun hb => absurd hb hblank }

/-- Outside the pulse the service may go to IDLE or SETTLE at any time. -/
theorem InputInv.to_latching {v : InputSide} (h : InputInv v) (hs : v.svc ≠ .inhibit) {c : Svc}
    (hc : latchingPhase c = true) : InputInv { v with svc := c } :=
  Bracketed.inputInv ⟨h.handoff, fun _ => h.rxState_lt hs, h.rxAcc, h.clkDriveLow_eq hs⟩ hc

/-! ### The command part -/

/-- What the command part of a cycle does to the two sides: it polls, starts the sequencer, or is KBDOFF, or is KBDON
outside a transmission (R138, R139). -/
inductive CommandEffect (p : Config.Timing) (cmd : Option Instr) (s t : State) : Prop where
  | polls (hcmd : endsService cmd = false) (hin : t.inputSide = s.inputSide) (hlink : t.linkSide = s.linkSide)
  | starts (hcmd : endsService cmd = false) (hen : s.kbdEnabled = false) (hbusy : s.txBusy = false)
      (hin : t.inputSide = s.inputSide)
      (hlink : t.linkSide =
        { s.linkSide with txBusy := true, lkPhase := .shift, lkCount := 0#5, lkDiv := p.shiftDiv })
  | disables (hcmd : endsService cmd = true)
      (hin : t.inputSide = { s.inputSide with kbdEnabled := false, clkDriveLow := true })
      (hlink : t.linkSide = s.linkSide)
  | enables (hcmd : endsService cmd = true) (hbusy : s.txBusy = false)
      (hin : t.inputSide = { s.inputSide with rxState := rxAwaitStart, rxAcc := 0x00#8, kbdEnabled := true,
                                              clkDriveLow := false })
      (hlink : t.linkSide = s.linkSide)

/-- A command other than LINKTX that completes has its event-level effect; KBDON only outside a transmission. -/
theorem cycleExec_next (p : Config.Timing) (i : Instr) (s t : State) (hl : isLinktx (some i) = false)
    (ht : cycleExec p i s = .next t) : exec i s = .next t ∧ (isKbdon (some i) = true → s.txBusy = false) := by
  cases hk : isKbdon (some i) && s.txBusy with
  | false => exact ⟨(cycleExec_exec p i s hl hk).symm.trans ht, fun h => by simpa [h] using hk⟩
  | true =>
    obtain ⟨hon, hbusy⟩ := Bool.and_eq_true_iff.mp hk
    cases i with
    | kbdon a b => cases (cycleExec_kbdon_busy p a b s hbusy).symm.trans ht
    | _ => cases hon

/-- A command that completes has one of these effects. -/
theorem cycleExec_effect (p : Config.Timing) (i : Instr) (s t : State) (hf : (encode i).format = .hostCmd)
    (ht : cycleExec p i s = .next t) : t.level = s.level ∧ CommandEffect p (some i) s t := by
  cases hl : isLinktx (some i) with
  | true =>
    cases i with
    | linktx a f =>
      rcases linkAccept_cases p a f s with ⟨-, e⟩ | ⟨-, -, e⟩ | ⟨hen, hbusy, e⟩
      · cases e.symm.trans ht
      · obtain rfl := Host.Outcome.next.inj (e.symm.trans ht)
        exact ⟨rfl, .polls rfl rfl rfl⟩
      · obtain rfl := Host.Outcome.next.inj (e.symm.trans ht)
        exact ⟨rfl, .starts rfl hen hbusy rfl rfl⟩
    | _ => cases hl
  | false =>
    obtain ⟨hexec, hbusy⟩ := cycleExec_next p i s t hl ht
    rcases exec_cmd_inputSide i s t hf hexec with ⟨hc, ft⟩ | ⟨hc, ft⟩ | ⟨hc, ft⟩ <;> rw [ft]
    · exact ⟨rfl, .polls hc rfl rfl⟩
    · exact ⟨rfl, .disables (by simp [endsService_eq, hc]) rfl rfl⟩
    · exact ⟨rfl, .enables (by simp [endsService_eq, hc]) (hbusy hc) rfl rfl⟩

/-- So has the command part of a cycle; without a command it is that of polling. -/
theorem cycleCommand_effect (p : Config.Timing) (i : CycleIn) (s t : State) (ht : cycleCommand p i s = .next t) :
    t.level = s.level ∧ CommandEffect p (cycleCmd i) s t := by
  cases hv : i.cmdValid with
  | false =>
    obtain rfl := Host.Outcome.next.inj ((cycleCommand_none p i s hv).symm.trans ht)
    exact ⟨rfl, .polls (by simp [cycleCmd, hv, endsService]) rfl rfl⟩
  | true =>
    have hc := cycleCmd_valid i hv
    simp only [cycleCommand, hc] at ht
    obtain ⟨u, hu, hut⟩ := (andThen_eq_next _ _ _).mp ht
    obtain rfl := Host.Outcome.next.inj hut
    obtain ⟨hlevel, heffect⟩ := cycleExec_effect p _ s u (format_decodeCmd i.cmd) hu
    rw [hc]
    refine ⟨hlevel, ?_⟩
    cases heffect with
    | polls hcmd hin hlink => exact .polls hcmd hin hlink
    | starts hcmd hen hbusy hin hlink => exact .starts hcmd hen hbusy hin hlink
    | disables hcmd hin hlink => exact .disables hcmd hin hlink
    | enables hcmd hbusy hin hlink => exact .enables hcmd hbusy hin hlink

/-! ### The edge service -/

/-- The sample keeps what the invariant says of the input side: in ERROR the pulse begins, else the service is idle
(R136). -/
theorem sampleEdge_inputInv (p : Config.Timing) (d : Bool) (s t : State) (h : InputInv s.inputSide)
    (hs : s.cyc.svc = .settle) (ht : sampleEdge p d s = .next t) : InputInv t.inputSide := by
  have hne : s.inputSide.svc ≠ .inhibit := fun he => by cases hs.symm.trans he
  unfold sampleEdge at ht
  split at ht
  case isFalse =>
    obtain rfl := Host.Outcome.next.inj ht
    exact h.to_latching hne rfl
  case isTrue hk =>
    obtain ⟨u, hu, hut⟩ := (andThen_eq_next _ _ _).mp ht
    obtain rfl := Host.Outcome.next.inj hut
    obtain ⟨u', hu', fu⟩ := receive_spec d s
    obtain rfl := Host.Outcome.next.inj (hu'.symm.trans hu)
    have hacc := receive_accZeros d s u' h.handoff h.rxAcc hu
    have hle := receive_rxState_le d s u' h.rxState hu
    rcases afterSample_cases p u' hle with ⟨-, ha⟩ | ⟨hlt, ha⟩ <;> rw [ha, fu]
    · exact
        { handoff := rfl
          rxState := BitVec.le_refl _
          rxError := iff_of_true rfl rfl
          rxAcc := accZeros_of_gt _ (by decide : rxBit7 < rxError)
          clkDriveLow := (Bool.or_true _).symm
          recovering := fun _ => hk
          blank := nofun }
    · exact Bracketed.inputInv ⟨rfl, fun _ => BitVec.lt_of_le_ne hle hlt, hacc, h.clkDriveLow_eq hne⟩ rfl

/-- The end of the pulse keeps it: the clock line is released and the blanking time begins (R136). -/
theorem InputInv.released {v : InputSide} (h : InputInv v) (hs : v.svc = .inhibit) :
    InputInv { v with rxState := rxAwaitStart, clkDriveLow := false, svc := .blank } :=
  have hk : v.kbdEnabled = true := h.recovering (.inl hs)
  { handoff := h.handoff
    rxState := (by decide : rxAwaitStart ≤ Machine.rxError)
    rxError := iff_of_false (by decide : rxAwaitStart ≠ Machine.rxError) nofun
    rxAcc := accZeros_awaitStart _
    clkDriveLow := by simp [hk]
    recovering := fun _ => hk
    blank := fun _ => rfl }

/-- A cycle of the edge service keeps it (R136, R138). -/
theorem serviceCycle_inputInv (p : Config.Timing) (d : Bool) (s t : State) (h : InputInv s.inputSide)
    (ht : serviceCycle p d s = .next t) : InputInv t.inputSide := by
  unfold serviceCycle at ht
  split at ht
  next hs =>
    obtain rfl := Host.Outcome.next.inj ht
    split
    · exact h.to_latching (fun he => by cases hs.symm.trans he) rfl
    · exact h
  next hs =>
    split at ht
    · obtain rfl := Host.Outcome.next.inj ht
      exact h
    · exact sampleEdge_inputInv p d s t h hs ht
  next hs =>
    obtain rfl := Host.Outcome.next.inj ht
    split
    · exact h
    · exact h.released hs
  next hs =>
    obtain rfl := Host.Outcome.next.inj ht
    split
    · exact h
    · exact h.to_latching (fun he => by cases hs.symm.trans he) rfl

/-- The end of a service leaves IDLE, and AWAIT_START in place of the pulse and the blanking time (R138). -/
theorem endService_inputSide (s : State) : (endService s).inputSide =
    { s.inputSide with rxState := if latchingPhase s.cyc.svc then s.rxState else rxAwaitStart, svc := .idle } := by
  cases hs : s.cyc.svc <;> simp [endService, State.inputSide, latchingPhase, hs]

/-- The service part after KBDOFF or KBDON restores what the invariant says: a service in progress ends (R138). -/
theorem cycleService_bracketed (p : Config.Timing) (i : CycleIn) (d : Bool) (s t : State)
    (hcmd : endsService (cycleCmd i) = true) (h : Bracketed s.inputSide) (ht : cycleService p i d s = .next t) :
    InputInv t.inputSide := by
  unfold cycleService at ht
  split at ht
  case isTrue =>
    obtain rfl := Host.Outcome.next.inj ht
    rw [endService_inputSide]
    refine Bracketed.inputInv ⟨h.handoff, fun _ => ?_, ?_, h.clkDriveLow⟩ rfl
    · dsimp only
      split
      · next hl => exact h.rxState hl
      · decide
    · dsimp only
      split
      · exact h.rxAcc
      · exact accZeros_awaitStart _
  case isFalse he =>
    have hs : s.cyc.svc = .idle := by simpa [serviceEnded, hcmd] using he
    exact serviceCycle_inputInv p d s t (h.inputInv (by rw [State.inputSide, hs]; rfl)) ht

/-- The command part and the service part together keep what the invariant says of the input side. -/
theorem CommandEffect.inputInv {p : Config.Timing} {i : CycleIn} {d : Bool} {s t u : State}
    (h : InputInv s.inputSide) (ht : CommandEffect p (cycleCmd i) s t) (hu : cycleService p i d t = .next u) :
    InputInv u.inputSide := by
  have runs : endsService (cycleCmd i) = false → t.inputSide = s.inputSide → InputInv u.inputSide := by
    intro hcmd hin
    rw [cycleService, serviceEnded_none i t hcmd] at hu
    exact serviceCycle_inputInv p d t u (hin ▸ h) hu
  have hrx : latchingPhase s.inputSide.svc = true → s.inputSide.rxState < rxError :=
    fun hl => h.rxState_lt fun he => by rw [he] at hl; cases hl
  cases ht with
  | polls hcmd hin => exact runs hcmd hin
  | starts hcmd _ _ hin => exact runs hcmd hin
  | disables hcmd hin =>
    refine cycleService_bracketed p i d t u hcmd ?_ hu
    rw [hin]
    exact ⟨h.handoff, hrx, h.rxAcc, rfl⟩
  | enables hcmd _ hin =>
    refine cycleService_bracketed p i d t u hcmd ?_ hu
    rw [hin]
    exact ⟨h.handoff, fun _ => (by decide : rxAwaitStart < rxError), accZeros_awaitStart _, rfl⟩

/-! ### The link sequencer -/

/-- The divider may be counted down or reloaded at any time. -/
theorem LinkInv.withDiv {p : Config.Timing} {v : LinkSide} (h : LinkInv p v) {n : Nat} (hn : n ≤ p.shiftDiv) :
    LinkInv p { v with lkDiv := n } :=
  { txBusy := h.txBusy
    lkCount := h.lkCount
    lkLow := h.lkLow
    lkDiv := hn
    srClk := h.srClk
    srLatch := h.srLatch }

/-- A cycle in SHIFT keeps it: a low half begins only with bits to come, and LATCH only at the last falling edge
(R141). -/
theorem shiftCycle_linkInv (p : Config.Timing) (s : State) (h : LinkInv p s.linkSide) (hs : s.cyc.lkPhase = .shift) :
    LinkInv p (shiftCycle p s).linkSide := by
  have hbusy : s.txBusy = true := h.txBusy.mpr fun he => by cases hs.symm.trans he
  have hless : s.cyc.lkDiv - 1 ≤ p.shiftDiv := (Nat.sub_le _ _).trans h.lkDiv
  simp only [shiftCycle]
  split_ifs with hclk _ hcount
  · exact h.withDiv hless
  · exact
      { txBusy := h.txBusy
        lkCount := h.lkCount
        lkLow := fun _ _ => BitVec.lt_def.mpr hcount
        lkDiv := Nat.sub_le _ _
        srClk := nofun
        srLatch := h.srLatch }
  · exact
      { txBusy := iff_of_true hbusy nofun
        lkCount := h.lkCount
        lkLow := nofun
        lkDiv := Nat.sub_le _ _
        srClk := nofun
        srLatch := fun _ => rfl }
  · exact h.withDiv (Nat.sub_le _ _)
  · exact h.withDiv hless
  · have hlt : s.cyc.lkCount < 16#5 := h.lkLow hs (Bool.eq_false_iff.mpr hclk)
    have hcount : s.cyc.lkCount + 1#5 ≤ 16#5 := by bv_omega
    exact
      { txBusy := h.txBusy
        lkCount := hcount
        lkLow := fun _ hc => nomatch hc
        lkDiv := Nat.sub_le _ _
        srClk := fun _ => hs
        srLatch := h.srLatch }

/-- A cycle in LATCH keeps it: the latch line is low in LATCH only, and its return to 1 ends the transmission (R141). -/
theorem latchCycle_linkInv (p : Config.Timing) (s : State) (h : LinkInv p s.linkSide) (hs : s.cyc.lkPhase = .latch) :
    LinkInv p (latchCycle p s).linkSide := by
  have hclk : s.cyc.srClk ≠ true := fun he => by cases hs.symm.trans (h.srClk he)
  have hless : s.cyc.lkDiv - 1 ≤ p.shiftDiv := (Nat.sub_le _ _).trans h.lkDiv
  simp only [latchCycle]
  split_ifs
  · exact h.withDiv hless
  · exact
      { txBusy := h.txBusy
        lkCount := h.lkCount
        lkLow := h.lkLow
        lkDiv := Nat.sub_le _ _
        srClk := h.srClk
        srLatch := fun _ => hs }
  · exact
      { txBusy := iff_of_false nofun fun hidle => hidle rfl
        lkCount := h.lkCount
        lkLow := nofun
        lkDiv := h.lkDiv
        srClk := fun hc => absurd hc hclk
        srLatch := nofun }

/-- A cycle of the sequencer keeps it. -/
theorem linkCycle_linkInv (p : Config.Timing) (s : State) (h : LinkInv p s.linkSide) :
    LinkInv p (linkCycle p s.cyc.lkPhase s).linkSide := by
  cases hs : s.cyc.lkPhase with
  | idle => exact h
  | shift => exact shiftCycle_linkInv p s h hs
  | latch => exact latchCycle_linkInv p s h hs

/-- The sequencer begins no transmission. -/
theorem linkCycle_txBusy (p : Config.Timing) (ph : LkPhase) (s : State) (h : (linkCycle p ph s).txBusy = true) :
    s.txBusy = true := by
  cases ph with
  | idle => exact h
  | shift =>
    simp only [linkCycle, shiftCycle] at h
    split_ifs at h <;> exact h
  | latch =>
    simp only [linkCycle, latchCycle] at h
    split_ifs at h
    · exact h
    · exact h
    · cases h

/-- The sequencer leaves the input side alone. -/
theorem linkCycle_inputSide (p : Config.Timing) (ph : LkPhase) (s : State) :
    (linkCycle p ph s).inputSide = s.inputSide := by
  rw [linkCycle_frame]
  rfl

/-- The command part and the sequencer's part together keep it: a LINKTX accepted in this cycle finds the sequencer
idle, which then does nothing until the next cycle (R141). -/
theorem CommandEffect.linkInv {p : Config.Timing} {cmd : Option Instr} {s t u : State} (h : LinkInv p s.linkSide)
    (ht : CommandEffect p cmd s t) (hu : u.linkSide = t.linkSide) :
    LinkInv p (linkCycle p s.cyc.lkPhase u).linkSide := by
  have runs : t.linkSide = s.linkSide → LinkInv p (linkCycle p s.cyc.lkPhase u).linkSide := by
    intro hlink
    have hus := hu.trans hlink
    have hphase : u.cyc.lkPhase = s.cyc.lkPhase := congrArg LinkSide.lkPhase hus
    rw [← hphase]
    exact linkCycle_linkInv p u (hus ▸ h)
  cases ht with
  | polls _ _ hlink => exact runs hlink
  | disables _ _ hlink => exact runs hlink
  | enables _ _ _ hlink => exact runs hlink
  | starts _ _ hbusy _ hlink =>
    have hidle : s.cyc.lkPhase = .idle := by
      by_contra hne
      exact absurd (h.txBusy.mpr hne) (Bool.eq_false_iff.mp hbusy)
    rw [hidle, linkCycle_idle, hu, hlink]
    exact
      { txBusy := iff_of_true rfl nofun
        lkCount := (by decide : 0#5 ≤ 16#5)
        lkLow := fun _ _ => (by decide : 0#5 < 16#5)
        lkDiv := le_refl _
        srClk := fun _ => rfl
        srLatch := fun hl => nomatch hidle.symm.trans (h.srLatch hl) }

/-! ### The whole cycle -/

/-- After the command the two sides exclude each other (R112, R130). -/
theorem CommandEffect.exclusive {p : Config.Timing} {cmd : Option Instr} {s t : State}
    (h : s.txBusy = true → s.kbdEnabled = false) (ht : CommandEffect p cmd s t) :
    t.txBusy = true → t.kbdEnabled = false := by
  cases ht with
  | polls _ hin hlink =>
    intro hbusy
    exact (congrArg InputSide.kbdEnabled hin).trans (h ((congrArg LinkSide.txBusy hlink).symm.trans hbusy))
  | starts _ hen _ hin => exact fun _ => (congrArg InputSide.kbdEnabled hin).trans hen
  | disables _ hin => exact fun _ => congrArg InputSide.kbdEnabled hin
  | enables _ hfree _ hlink =>
    exact fun hbusy => nomatch ((congrArg LinkSide.txBusy hlink).trans hfree).symm.trans hbusy

/-- No command hands a byte over. -/
theorem CommandEffect.handoff {p : Config.Timing} {cmd : Option Instr} {s t : State}
    (ht : CommandEffect p cmd s t) : t.handoff = s.handoff := by
  cases ht with
  | polls _ hin | starts _ _ _ hin | disables _ hin | enables _ _ hin => exact congrArg InputSide.handoff hin

/-- A cycle with `rst = 0` keeps the invariant. -/
theorem runCycle_cycleInv (p : Config.Timing) (i : CycleIn) (s v : State) (h : CycleInv p s)
    (hv : runCycle p i s = .next v) : CycleInv p v := by
  obtain ⟨hlevel, hin, hlink, hex⟩ := (cycleInv_iff p s).mp h
  obtain ⟨t, u, ht, hu, rfl⟩ := runCycle_next p i s v hv
  obtain ⟨tlevel, teffect⟩ := cycleCommand_effect p i s t ht
  obtain ⟨u', hu', fu⟩ := cycleService_spec p i (s.cyc.dataSync.getLsbD 1) t (teffect.handoff.trans h.handoff)
  obtain rfl := Host.Outcome.next.inj (hu'.symm.trans hu)
  have ulevel : u'.level = t.level := by rw [fu]
  have ulink : u'.linkSide = t.linkSide := by rw [fu]; rfl
  have uen : u'.kbdEnabled = t.kbdEnabled := by rw [fu]
  have ubusy : u'.txBusy = t.txBusy := by rw [fu]
  have inputInv : InputInv (linkCycle p s.cyc.lkPhase u').inputSide := by
    rw [linkCycle_inputSide]
    exact teffect.inputInv hin hu
  have exclusive : (linkCycle p s.cyc.lkPhase u').txBusy = true →
      (linkCycle p s.cyc.lkPhase u').kbdEnabled = false := by
    intro hbusy
    have hu' := linkCycle_txBusy p _ u' hbusy
    rw [linkCycle_frame]
    exact uen.trans (teffect.exclusive hex (ubusy.symm.trans hu'))
  rw [latchFall_frame]
  refine (cycleInv_iff p _).mpr ⟨?_, inputInv, teffect.linkInv hlink ulink, exclusive⟩
  rw [linkCycle_frame]
  exact ulevel.trans (tlevel.trans hlevel)

/-- The reset input leaves a state of the cycle level that meets its invariant. -/
theorem resetBlock_cycleInv (p : Config.Timing) (s : State) (h : s.level = .cycle) : CycleInv p (resetBlock s) :=
  (cycleInv_iff p _).mpr ⟨h,
    Bracketed.inputInv ⟨rfl, fun _ => (by decide : rxAwaitStart < rxError), accZeros_awaitStart _, rfl⟩ rfl,
    { txBusy := iff_of_false nofun fun hidle => hidle rfl
      lkCount := (by decide : 0#5 ≤ 16#5)
      lkLow := nofun
      lkDiv := Nat.zero_le _
      srClk := nofun
      srLatch := nofun }, nofun⟩

/-- The invariant does not speak of the busy pin and the inputs to come. -/
theorem CycleInv.of_inputs {p : Config.Timing} {s : State} (h : CycleInv p s) (b : Bool) (is : List CycleIn) :
    CycleInv p { s with busyPin := b, cycles := is } :=
  (cycleInv_iff p _).mpr ((cycleInv_iff p s).mp h)

/-- A clock cycle keeps the invariant. -/
theorem clockCycle_cycleInv (p : Config.Timing) (i : CycleIn) (s t : State) (h : CycleInv p s)
    (ht : clockCycle p i s = .next t) : CycleInv p t := by
  cases hr : i.rst with
  | true =>
    simp only [clockCycle, hr, if_true] at ht
    obtain rfl := Host.Outcome.next.inj ht
    exact resetBlock_cycleInv p _ h.level
  | false =>
    rw [clockCycle_run p i s hr] at ht
    exact runCycle_cycleInv p i _ t (h.of_inputs i.busy s.cycles) ht

/-- Settles O52: every part of a cycle keeps its side of the invariant. -/
theorem cycleInvKept : Obligations.CycleInvKept := by
  refine ⟨fun p i s t _ h ht => clockCycle_cycleInv p i s t h ht, fun s t h ht => ?_⟩
  cases hc : s.cycles with
  | nil =>
    simp only [step, h.level, cycleStep, hc] at ht
    exact Host.Outcome.next.inj ht ▸ h
  | cons i is =>
    rw [step_cycle s i is h.level hc] at ht
    exact clockCycle_cycleInv _ i _ t (h.of_inputs s.busyPin is) ht

end Sys2Proof.Machine
end

section
/-! PROOFS. The decoder and the encoder agree with each other, with the byte form and with the opcode table
(R44, R46, R48, R49, R51, R52). -/

namespace Sys2Proof

/-! ### Command words by their fields -/

/-- The top bit of a command code is the bit joined to its three low bits (R49, R51). -/
theorem cat_bit_top (t : BitVec 1) (op : BitVec 3) : (cat t op : BitVec 4).getLsbD 3 = t.getLsbD 0 := by
  revert t op
  decide

/-- A command code is its top bit and its three low bits. -/
theorem cat_top_low (op : BitVec 4) : cat (BitVec.ofBool (op.getLsbD 3)) (op.extractLsb' 0 3 : BitVec 3) = op := by
  revert op
  decide

theorem decodeCmd_reservedOp (op : BitVec 3) (rsv : BitVec 4) (a b : Byte) :
    decodeCmd (cmdWord (cat 1#1 op) rsv a b) = .reservedOp op rsv a b := by
  rw [decodeCmd_cmdWord, cat_bit_top, extract_cat_lo _ _ (by decide)]
  rfl

theorem decodeCmd_reservedRsv (op : BitVec 3) (rsv : BitVec 4) (a b : Byte) (h : rsv ≠ 0#4) :
    decodeCmd (cmdWord (cat 0#1 op) rsv a b) = .reservedRsv op rsv a b := by
  rw [decodeCmd_cmdWord, cat_bit_top, extract_cat_lo _ _ (by decide)]
  exact if_pos h

/-- The codes of the legal commands (R49). -/
theorem legal_op_cases (op : BitVec 4) (h : op.getLsbD 3 = false) :
    op = 0#4 ∨ op = 1#4 ∨ op = 2#4 ∨ op = 3#4 ∨ op = 4#4 ∨ op = 5#4 ∨ op = 6#4 ∨ op = 7#4 := by
  revert op
  decide

/-! ### Decode of encode -/

/-- Decoding the word of a well-formed instruction gives the instruction back: the guards of the rows before its own
fail on the fields of its word. -/
theorem decodeWord_encode (i : Instr) (h : i.wf = true) : decodeWord (encode i) = i := by
  cases i with
  | nop a b | rxread a b | rxcount a b | kbdoff a b | kbdon a b | linktx a b | linkbusy a b | status a b =>
    exact decodeCmd_cmdWord _ _ a b
  | reservedOp op rsv a b => exact decodeCmd_reservedOp op rsv a b
  | reservedRsv op rsv a b => exact decodeCmd_reservedRsv op rsv a b (by simpa [Instr.wf] using h)
  | rxStart d | rxBit0 d | rxBit1 d | rxBit2 d | rxBit3 d | rxBit4 d | rxBit5 d | rxBit6 d | rxBit7 d
  | rxParity d | rxStop d | rxError d => exact decodeRx_rxev _ d
  | rxUnused low d =>
    clear h
    revert low d
    decide
  | trNormalF0 | trNormalE0 | trExtF0 => rfl
  | trBreak b | trExtbreak b => exact decodeTr_trev _ b
  | trNormalOther b =>
    obtain ⟨hf0, he0⟩ : b ≠ Config.breakPrefix ∧ b ≠ Config.extPrefix := by simpa [Instr.wf] using h
    simp [encode, decodeWord, decodeTr_trev, hf0, he0]
  | trExtOther b =>
    have hf0 : b ≠ Config.breakPrefix := by simpa [Instr.wf] using h
    simp [encode, decodeWord, decodeTr_trev, hf0]

/-- Settles O8, by the constructors of `Instr`. -/
theorem decodeOfEncode : Obligations.DecodeOfEncode := decodeWord_encode

/-! ### Encode of decode -/

/-- A command word given by its fields decodes to a well-formed instruction, whose word it is. -/
theorem encode_decodeCmd_cmdWord (op rsv : BitVec 4) (a b : Byte) :
    (decodeCmd (cmdWord op rsv a b)).wf = true ∧
      encode (decodeCmd (cmdWord op rsv a b)) = .cmd (cmdWord op rsv a b) := by
  have hop := cat_top_low op
  cases htop : op.getLsbD 3 with
  | true =>
    rw [← hop, htop]
    exact decodeCmd_reservedOp _ rsv a b ▸ ⟨rfl, rfl⟩
  | false =>
    by_cases hrsv : rsv = 0#4
    · subst hrsv
      rw [decodeCmd_cmdWord]
      rcases legal_op_cases op htop with rfl | rfl | rfl | rfl | rfl | rfl | rfl | rfl <;> exact ⟨rfl, rfl⟩
    · rw [← hop, htop]
      exact decodeCmd_reservedRsv _ rsv a b hrsv ▸ ⟨bne_iff_ne.mpr hrsv, rfl⟩

/-- So does every command word. -/
theorem encode_decodeCmd (w : CmdWord) : (decodeCmd w).wf = true ∧ encode (decodeCmd w) = .cmd w :=
  cmdWord_fields w ▸ encode_decodeCmd_cmdWord _ _ _ _

/-- So does a translator event word given by its fields. -/
theorem encode_decodeTr_trev (ks : BitVec 2) (b : Byte) :
    (decodeTr (trev ks b)).wf = true ∧ encode (decodeTr (trev ks b)) = .tr (trev ks b) := by
  rw [decodeTr_trev]
  split_ifs with hnormal hf0 he0 hbreak hext hf0
  · subst hnormal hf0
    exact ⟨rfl, rfl⟩
  · subst hnormal he0
    exact ⟨rfl, rfl⟩
  · subst hnormal
    exact ⟨by simp [Instr.wf, hf0, he0], rfl⟩
  · subst hbreak
    exact ⟨rfl, rfl⟩
  · subst hext hf0
    exact ⟨rfl, rfl⟩
  · subst hext
    exact ⟨by simp [Instr.wf, hf0], rfl⟩
  · obtain rfl : ks = 3#2 := by revert ks; decide
    exact ⟨rfl, rfl⟩

/-- So does every translator event word. -/
theorem encode_decodeTr (w : TrWord) : (decodeTr w).wf = true ∧ encode (decodeTr w) = .tr w :=
  trev_fields w ▸ encode_decodeTr_trev _ _

/-- So does a receiver event word. -/
theorem encode_decodeRx (w : RxWord) : (decodeRx w).wf = true ∧ encode (decodeRx w) = .rx w := by
  revert w
  decide

/-- Settles O9, by the three formats. -/
theorem encodeOfDecode : Obligations.EncodeOfDecode
  | .cmd w => encode_decodeCmd w
  | .rx w => encode_decodeRx w
  | .tr w => encode_decodeTr w

/-! ### The byte form -/

/-- The bytes of a number that fits a format are read as the word of that number, and the bytes after it are left. -/
theorem decodeBytes_natToBytes (f : Format) (w : Nat) (rest : List Byte) (h : w < 256 ^ f.bytes) :
    decodeBytes f (natToBytes f.bytes w ++ rest) = (EventWord.ofNat f w).map fun ew => (decodeWord ew, rest) := by
  have hlen : (natToBytes f.bytes w).length = f.bytes := length_natToBytes _ _
  have htake : (natToBytes f.bytes w ++ rest).take f.bytes = natToBytes f.bytes w := List.take_left' hlen
  have hdrop : (natToBytes f.bytes w ++ rest).drop f.bytes = rest := List.drop_left' hlen
  rw [decodeBytes, if_neg (by simp), htake, hdrop, bytesToNat_natToBytes _ _ h]
  cases EventWord.ofNat f w <;> rfl

/-- Settles O10: the bytes give the word's number, the number the word, the word the instruction. -/
theorem bytesReadBack : Obligations.BytesReadBack := by
  intro i rest h
  rw [encodeBytes, decodeBytes_natToBytes _ _ _ (eventWord_fits _), eventWord_ofNat_toNat, Except.map,
    decodeWord_encode i h]

/-- A number that is no word of its row's format is rejected. -/
theorem decodeTableWord_error (nbits w : Nat) (e : DecodeError) (h : w < 256 ^ (formatOfBits nbits).bytes)
    (he : EventWord.ofNat (formatOfBits nbits) w = .error e) : decodeTableWord nbits w = none := by
  have hd := decodeBytes_natToBytes (formatOfBits nbits) w [] h
  rw [List.append_nil, he, Except.map] at hd
  rw [decodeTableWord, hd]

/-- Settles O12: such a number fits the format's bytes and not its bits. -/
theorem strayBitsRejected : Obligations.StrayBitsRejected :=
  ⟨fun w hlo hhi => decodeTableWord_error 8 w .strayBits hhi (if_neg (Nat.not_lt.mpr hlo)),
   fun w hlo hhi => decodeTableWord_error 16 w .strayBits hhi (if_neg (Nat.not_lt.mpr hlo))⟩

/-- Settles O7, by evaluating the decoders on the words of the spec's tables. -/
theorem specWordsDecode : Obligations.SpecWordsDecode := by
  unfold Obligations.SpecWordsDecode
  decide

/-! ### The opcode table -/

theorem firstRow_cons (r : OpRow) (rows : List OpRow) (w : Nat) :
    firstRow (r :: rows) w = if w &&& r.mask = r.value then some r.mnemonic else firstRow rows w := by
  by_cases h : w &&& r.mask = r.value <;> simp [firstRow, h]

/-- A command word under the mask of `op` and `rsv`, as numbers. -/
theorem mask_cmdWord_toNat (op rsv : BitVec 4) (a b : Byte) :
    (cmdWord op rsv a b).toNat &&& 0xFF0000 = (op.toNat * 16 + rsv.toNat) * 65536 := by
  rw [Laws.OpcodeRow.mask_cmdWord]
  exact congrArg (· * 65536) (toNat_cat op rsv (by decide))

/-- A translator event word under the mask of all its bits. -/
theorem mask_trev_all (ks : BitVec 2) (b : Byte) : (trev ks b).toNat &&& 0x3FF = ks.toNat * 256 + b.toNat := by
  rw [show (0x3FF : Nat) = 2 ^ 10 - 1 from rfl, Nat.and_two_pow_sub_one_of_lt_two_pow (trev ks b).isLt]
  exact toNat_cat ks b (by decide)

/-- A command word whose command code is not legal or whose reserved field is not 0 matches none of the eight legal
rows, so its top bit decides (R51). -/
theorem firstRow_illegal (op rsv : BitVec 4) (a b : Byte) (h : 8 ≤ op.toNat ∨ rsv.toNat ≠ 0) :
    firstRow hostRows (cmdWord op rsv a b).toNat =
      if op.getLsbD 3 then some "RESERVED_OP" else some "RESERVED_RSV" := by
  have hrsv := rsv.isLt
  simp only [hostRows, firstRow_cons, mask_cmdWord_toNat]
  iterate 8 rw [if_neg (by omega)]
  rw [mask_top, cmdWord_top]
  cases op.getLsbD 3 <;> rfl

/-- The first row that the word of a well-formed instruction matches is the instruction's own. -/
theorem firstRow_encode (i : Instr) (h : i.wf = true) :
    firstRow (opRows (encode i).format) (encode i).toNat = some i.mnemonic := by
  cases i with
  | nop a b | rxread a b | rxcount a b | kbdoff a b | kbdon a b | linktx a b | linkbusy a b | status a b =>
    change firstRow hostRows (cmdWord _ _ a b).toNat = some _
    simp [hostRows, firstRow_cons, mask_cmdWord_toNat, Instr.mnemonic]
  | reservedOp op rsv a b =>
    have hop : (cat 1#1 op : BitVec 4).toNat = 8 + op.toNat := toNat_cat 1#1 op (by decide)
    refine (firstRow_illegal _ rsv a b (.inl (by omega))).trans ?_
    rw [cat_bit_top]
    rfl
  | reservedRsv op rsv a b =>
    have hrsv : rsv.toNat ≠ 0 := by simpa [Instr.wf, BitVec.toNat_eq] using h
    refine (firstRow_illegal _ rsv a b (.inr hrsv)).trans ?_
    rw [cat_bit_top]
    rfl
  | rxStart d | rxBit0 d | rxBit1 d | rxBit2 d | rxBit3 d | rxBit4 d | rxBit5 d | rxBit6 d | rxBit7 d
  | rxParity d | rxStop d | rxError d => cases d <;> rfl
  | rxUnused low d =>
    clear h
    revert low d
    decide
  | trNormalF0 | trNormalE0 | trExtF0 => rfl
  | trNormalOther b =>
    obtain ⟨hf0, he0⟩ : b.toNat ≠ 0xF0 ∧ b.toNat ≠ 0xE0 := by
      simpa [Instr.wf, BitVec.toNat_eq, Config.breakPrefix, Config.extPrefix] using h
    change firstRow trRows (trev _ b).toNat = some _
    simp [trRows, firstRow_cons, mask_trev_all, Laws.OpcodeRow.mask_trev, Instr.mnemonic, hf0, he0]
  | trExtOther b =>
    have hf0 : b.toNat ≠ 0xF0 := by simpa [Instr.wf, BitVec.toNat_eq, Config.breakPrefix] using h
    change firstRow trRows (trev _ b).toNat = some _
    simp (disch := omega) [trRows, firstRow_cons, mask_trev_all, Laws.OpcodeRow.mask_trev, Instr.mnemonic, if_neg]
  | trBreak b | trExtbreak b =>
    change firstRow trRows (trev _ b).toNat = some _
    simp (disch := omega) [trRows, firstRow_cons, mask_trev_all, Laws.OpcodeRow.mask_trev, Instr.mnemonic, if_neg]

/-- Settles O11: every word is the word of the instruction it decodes to. -/
theorem decoderFollowsOpcodeTable : Obligations.DecoderFollowsOpcodeTable := by
  intro w
  obtain ⟨hwf, hw⟩ := encodeOfDecode w
  simpa only [hw] using firstRow_encode _ hwf

end Sys2Proof
end

section
/-! PROOFS. What one step at the event level runs: the instruction that the stimulus, the byte handed over or the placed
word decodes to (R44, R46, R52, R61, R63, R75). -/

namespace Sys2Proof.Machine

theorem andThen_assoc (o : Res) (f g : State → Res) :
    andThen (andThen o f) g = andThen o fun s => andThen (f s) g := by
  cases o <;> rfl

/-- The step of a byte handed over is the translator's (log 2). -/
theorem step_handoff (s : State) (b : Byte) (hl : s.level = .event) (hb : s.handoff = some b) :
    step s = runTranslator s := by
  rw [step_eq_eventStep s hl, eventStep, hb]

/-- Settles O4: the step of an accepted edge is the receiver's instruction, the translator's step and the final test,
in this order. -/
theorem stepRunsDecodedEdge : Obligations.StepRunsDecodedEdge := by
  intro s d es hl hh hk he
  rw [step_edge s d es hl hh hk he, receive, andThen_assoc]
  rfl

/-- Settles O5: such a step is the translator's, which decodes `kstate` and the byte. -/
theorem stepRunsDecodedTranslatorByte : Obligations.StepRunsDecodedTranslatorByte := by
  intro s b hl hb
  rw [step_handoff s b hl hb, runTranslator, hb]

/-- A word's number in a row of its own format places the word (log 13). -/
theorem withFetchWord_toNat (s : State) (nbits : Nat) (w : EventWord) (h : formatOfBits nbits = w.format) :
    s.withFetchWord nbits w.toNat = placeWord w s := by
  rw [State.withFetchWord, placeNumber, h, eventWord_ofNat_toNat]

theorem step_placeWord_cmd (s : State) (w : CmdWord) :
    step (placeWord (.cmd w) s) = exec (decodeCmd w) { s with level := .event, handoff := none } :=
  stepRunsDecodedCommand _ w s.events rfl rfl rfl

theorem step_placeWord_rx (s : State) (w : RxWord) :
    step (placeWord (.rx w) s) = andThen (exec (decodeRx w)
      { s with level := .event, handoff := none, kbdEnabled := true, rxState := w.extractLsb' 1 4 }) fun t =>
      andThen (runTranslator t) fun u => .next (recoverIfError u) := by
  rw [step_edge _ _ s.events rfl rfl rfl rfl, receive, andThen_assoc]
  simp only [placeWord, rxev_fields]

theorem step_placeWord_tr (s : State) (w : TrWord) :
    step (placeWord (.tr w) s) =
      exec (decodeTr w) { s with level := .event, kstate := w.extractLsb' 8 2, handoff := none } := by
  rw [stepRunsDecodedTranslatorByte _ (w.extractLsb' 0 8) rfl rfl]
  simp only [placeWord, trev_fields]

/-- Settles O6, by the three formats. -/
theorem placedWordRunsNext : Obligations.PlacedWordRunsNext := by
  refine ⟨fun s w => ?_, fun s w => ?_, fun s w => ?_⟩
  · exact (congrArg step (withFetchWord_toNat s 24 (.cmd w) rfl)).trans (step_placeWord_cmd s w)
  · exact (congrArg step (withFetchWord_toNat s 8 (.rx w) rfl)).trans (step_placeWord_rx s w)
  · exact (congrArg step (withFetchWord_toNat s 16 (.tr w) rfl)).trans (step_placeWord_tr s w)

end Sys2Proof.Machine
end

section
/-! PROOFS. The response of a command word, the operands it does not use, and LINKTX's transmission (R47, R50, R51,
R55, R56, R59, R112). -/

namespace Sys2Proof.Machine

/-! ### LINKTX -/

/-- The shift edges of a transmission in the order of R47, by the place of each bit in its byte. -/
theorem map_shiftEdge_linkBits (a f : Byte) : (linkBits a f).map Obs.shiftEdge =
    ((List.range 8).map fun k => Obs.shiftEdge (a.getLsbD (7 - k))) ++
      (List.range 8).map fun k => Obs.shiftEdge (f.getLsbD (7 - k)) := rfl

/-- The cascade after the sixteen edges and the latch: both bytes in place and committed (R55, R56). -/
theorem latchOutputs_linkBits (a f : Byte) (s : State) : latchOutputs (shiftEdges (linkBits a f) s) =
    { s with linkSr := cat a f, outAddr := a, outFlags := f,
             trace := .latch a f :: ((linkBits a f).map Obs.shiftEdge).reverse ++ s.trace } := by
  simp only [latchOutputs, shiftEdges_eq, shiftIn_linkBits, farReg_cat, nearReg_cat, List.cons_append]

/-- LINKTX with the interface disabled and no transmission in progress sends (R59). -/
theorem exec_linktx_sends (a f : Byte) (s : State) (hk : s.kbdEnabled = false) (hb : s.txBusy = false) :
    exec (.linktx a f) s =
      .next (respond true false 0x00#8 (latchOutputs (shiftEdges (linkBits a f) s))) := by
  simp [exec, execLinktx, linkForbidden, hk, hb]

/-- Settles O18: the cascade moves the sixteen bits into place, and the latch commits them. -/
theorem linktxShiftsAndLatches : Obligations.LinktxShiftsAndLatches := by
  refine fun a f s => ⟨decodeCmd_cmdWord _ _ a f, fun hk hb => ?_⟩
  rw [exec_linktx_sends a f s hk hb, latchOutputs_linkBits, map_shiftEdge_linkBits, cat_eq_ofNat]
  rfl

/-! ### Unused operands -/

/-- Settles O23, by the legal command codes: no row but LINKTX's reads its operands. -/
theorem unusedOperandsIgnored : Obligations.UnusedOperandsIgnored := by
  intro op a b a' b' s hlegal hlink
  rw [decodeCmd_cmdWord, decodeCmd_cmdWord]
  have htop : op.getLsbD 3 = false := by
    clear hlink
    revert op
    decide
  rcases legal_op_cases op htop with rfl | rfl | rfl | rfl | rfl | rfl | rfl | rfl
  case inr.inr.inr.inr.inr.inl => exact absurd rfl hlink
  all_goals rfl

/-! ### Responses -/

/-- The instruction of an illegal command word (R51). -/
def isIllegal : Instr → Bool
  | .reservedOp _ _ _ _ => true
  | .reservedRsv _ _ _ _ => true
  | _ => false

/-- A word decodes to an illegal instruction exactly by its bit 23 or its reserved field (R51). -/
theorem isIllegal_decodeCmd (w : CmdWord) :
    isIllegal (decodeCmd w) = true ↔ w.getLsbD 23 = true ∨ w.extractLsb' 16 4 ≠ 0#4 := by
  simp only [decodeCmd]
  split_ifs <;> simp_all [isIllegal]

/-- What a command that completes does last: it responds, after what it has shown, with `ERR` exactly for an illegal
word and then without `OK` (R50). -/
def Responds (i : Instr) (s t : State) : Prop :=
  ∃ ok data u shown, t = respond ok (isIllegal i) data u ∧ (isIllegal i && ok) = false ∧
    u.trace = shown ++ s.trace ∧ ∀ r, Obs.response r ∉ shown

theorem exec_cmd_responds (i : Instr) (s t : State) (hf : (encode i).format = .hostCmd) (ht : exec i s = .next t) :
    Responds i s t := by
  cases i with
  | nop | rxcount | kbdoff | kbdon | linkbusy | status | reservedOp | reservedRsv =>
    obtain rfl := Host.Outcome.next.inj ht
    exact ⟨_, _, _, [], rfl, rfl, rfl, nofun⟩
  | rxread =>
    obtain rfl := Host.Outcome.next.inj ht
    split <;> exact ⟨_, _, _, [], rfl, rfl, rfl, nofun⟩
  | linktx a f =>
    simp only [exec, execLinktx] at ht
    split at ht
    · cases ht
    · obtain rfl := Host.Outcome.next.inj ht
      split
      · exact ⟨_, _, _, [], rfl, rfl, rfl, nofun⟩
      · refine ⟨_, _, _, _, rfl, rfl, congrArg State.trace (latchOutputs_linkBits a f s), ?_⟩
        simp
  | _ => simp [encode, EventWord.format] at hf

/-- Settles O24: a command that completes responds last, and only LINKTX can fail to complete. -/
theorem everyCommandRespondsOnce : Obligations.EveryCommandRespondsOnce := by
  intro w s
  rcases exec_decodeCmd w s with ⟨t, ht, -⟩ | ⟨hlinktx, hforbidden, hfault⟩
  · obtain ⟨ok, data, u, shown, rfl, hflags, htrace, hshown⟩ := exec_cmd_responds _ s t (format_decodeCmd w) ht
    refine .inl ⟨_, shown, ht, by simp [htrace], hshown, by simpa using hflags, ?_⟩
    simpa using isIllegal_decodeCmd w
  · exact .inr ⟨hlinktx, by simpa [linkForbidden, Config.sharedPins] using hforbidden, hfault⟩

end Sys2Proof.Machine
end

section
/-! PROOFS. Complete scan-code sequences take the key-event state from NORMAL back to NORMAL (R45, R88). -/

namespace Sys2Proof.Machine

/-! ### The translator's step at the head of a sequence, by its row (R46) -/

/-- T_NORM_F0 (R80). -/
theorem translateBytes_normal_f0 (bs : List Byte) (s : State) (h : s.kstate = 0#2) :
    translateBytes (0xF0#8 :: bs) s = translateBytes bs { s with handoff := none, kstate := 1#2 } := by
  rw [translateBytes, runTranslator_some 0xF0#8 _ rfl, if_pos h]
  rfl

/-- T_NORM_E0 (R81). -/
theorem translateBytes_normal_e0 (bs : List Byte) (s : State) (h : s.kstate = 0#2) :
    translateBytes (0xE0#8 :: bs) s = translateBytes bs { s with handoff := none, kstate := 2#2 } := by
  rw [translateBytes, runTranslator_some 0xE0#8 _ rfl, if_pos h]
  rfl

/-- T_NORM_OTHER (R82). -/
theorem translateBytes_normal_other (c : Byte) (bs : List Byte) (s : State) (h : s.kstate = 0#2) (hf0 : c ≠ 0xF0#8)
    (he0 : c ≠ 0xE0#8) : translateBytes (c :: bs) s =
      andThen (execTrNormalOther c { s with handoff := none }) (translateBytes bs) := by
  rw [translateBytes, runTranslator_some c _ rfl, if_pos h]
  exact congrArg (andThen · _) ((if_neg hf0).trans (if_neg he0))

/-- T_BREAK (R83). -/
theorem translateBytes_break (c : Byte) (bs : List Byte) (s : State) (h : s.kstate = 1#2) :
    translateBytes (c :: bs) s = translateBytes bs
      { s with handoff := none, mods := clearModifier s.mods (modmap c), kstate := 0#2 } := by
  rw [translateBytes, runTranslator_some c _ rfl]
  simp only [h]
  rfl

/-- T_EXT_F0 (R84). -/
theorem translateBytes_ext_f0 (bs : List Byte) (s : State) (h : s.kstate = 2#2) :
    translateBytes (0xF0#8 :: bs) s = translateBytes bs { s with handoff := none, kstate := 3#2 } := by
  rw [translateBytes, runTranslator_some 0xF0#8 _ rfl]
  simp only [h]
  rfl

/-- T_EXT_OTHER (R85). -/
theorem translateBytes_ext_other (c : Byte) (bs : List Byte) (s : State) (h : s.kstate = 2#2) (hf0 : c ≠ 0xF0#8) :
    translateBytes (c :: bs) s = translateBytes bs
      { s with handoff := none, mods := setModifier s.mods (extmodmap c), kstate := 0#2 } := by
  rw [translateBytes, runTranslator_some c _ rfl]
  simp only [h]
  exact congrArg (andThen · _) (if_neg hf0)

/-- T_EXTBREAK (R86). -/
theorem translateBytes_extbreak (c : Byte) (bs : List Byte) (s : State) (h : s.kstate = 3#2) :
    translateBytes (c :: bs) s = translateBytes bs
      { s with handoff := none, mods := clearModifier s.mods (extmodmap c), kstate := 0#2 } := by
  rw [translateBytes, runTranslator_some c _ rfl]
  simp only [h]
  rfl

/-! ### Complete sequences -/

/-- T_NORM_OTHER leaves the key-event state alone, with a character or without (R82). -/
theorem execTrNormalOther_kstate (c : Byte) (s : State) :
    ∃ t, execTrNormalOther c s = .next t ∧ t.kstate = s.kstate := by
  refine ⟨_, rfl, ?_⟩
  split
  · rfl
  · simp only [noCharacter]
    split <;> rfl

/-- Settles O40: each sequence is followed byte by byte through its rows. -/
theorem sequencesReturnToNormal : Obligations.SequencesReturnToNormal := by
  intro c s h
  refine ⟨fun hf0 he0 => ?_, ?_, fun hf0 => ?_, ?_⟩
  · obtain ⟨t, ht, hkt⟩ := execTrNormalOther_kstate c { s with handoff := none }
    refine ⟨t, ?_, hkt.trans h⟩
    rw [translateBytes_normal_other c [] s h hf0 he0, ht]
    rfl
  · rw [translateBytes_normal_f0 [c] s h, translateBytes_break c [] _ rfl]
    exact ⟨_, rfl, rfl, rfl, rfl⟩
  · rw [translateBytes_normal_e0 [c] s h, translateBytes_ext_other c [] _ rfl hf0]
    exact ⟨_, rfl, rfl, rfl, rfl⟩
  · rw [translateBytes_normal_e0 [0xF0#8, c] s h, translateBytes_ext_f0 [c] _ rfl,
      translateBytes_extbreak c [] _ rfl]
    exact ⟨_, rfl, rfl, rfl, rfl⟩

end Sys2Proof.Machine
end

section
/-! PROOFS. LINKTX's fault and refusal, and LINKBUSY's answer (R59, R60, R112). -/

namespace Sys2Proof.Machine

/-! ### LINKTX while it may not send -/

/-- The pins are shared, so LINKTX is the fault while the interface is enabled (R112, log 9). -/
theorem exec_linktx_faults (a f : Byte) (s : State) (hk : s.kbdEnabled = true) :
    exec (.linktx a f) s = .fault .linkWhileKeyboardEnabled := by
  have hforbidden : linkForbidden s = true := by simp [linkForbidden, Config.sharedPins, hk]
  simp only [exec, execLinktx, if_pos hforbidden]

/-- With the interface disabled, LINKTX during a transmission only responds, with `OK = 0` (R59). -/
theorem exec_linktx_refused (a f : Byte) (s : State) (hk : s.kbdEnabled = false) (hb : s.txBusy = true) :
    exec (.linktx a f) s = .next (respond false false 0x00#8 s) := by
  simp [exec, execLinktx, linkForbidden, hk, hb]

/-- Settles O19: the interface decides the fault, a transmission in progress the refusal. -/
theorem linktxFaultOrRefusal : Obligations.LinktxFaultOrRefusal :=
  fun a f s => ⟨exec_linktx_faults a f s, exec_linktx_refused a f s⟩

/-! ### LINKBUSY -/

/-- LINKBUSY only responds, with the pin's level in `DATA[0]` (R60). -/
theorem exec_linkbusy (a b : Byte) (s : State) (level : Bool) (hp : s.busyPin = level) :
    exec (.linkbusy a b) s = .next (respond true false (BitVec.setWidth 8 (BitVec.ofBool level)) s) := by
  subst hp
  rfl

/-- Settles O20: command code 6 is LINKBUSY, which answers with the pin's level. -/
theorem linkbusyReturnsPin : Obligations.LinkbusyReturnsPin :=
  fun a b s => ⟨decodeCmd_cmdWord _ _ a b, exec_linkbusy a b s true, exec_linkbusy a b s false⟩

end Sys2Proof.Machine
end

section
/-! PROOFS. The receiver's state rules, an edge that breaks the frame, and edges while the interface is disabled (R61,
R63 to R71, R110). -/

namespace Sys2Proof.Machine

/-! ### The state rules -/

/-- Settles O25: RX_START in both bits (R64). -/
theorem startBitRule : Obligations.StartBitRule := fun _ => ⟨rfl, rfl⟩

/-- A data bit taken enters at bit 7 and moves the others one place down (R65). -/
theorem takeBit_shifts_down (d : Bool) (n : BitVec 4) (s : State) : ∃ acc : Byte,
    (.next (takeBit d n s) : Res) = .next { s with rxAcc := acc, rxState := n } ∧
      acc.getLsbD 7 = d ∧ ∀ k, k < 7 → acc.getLsbD k = s.rxAcc.getLsbD (k + 1) :=
  ⟨shiftAcc d s.rxAcc, rfl, shiftAcc_top d s.rxAcc, shiftAcc_low d s.rxAcc⟩

/-- Settles O26: each of the eight instructions takes the bit and goes to its own next state (R65, R66). -/
theorem dataBitsShiftIn : Obligations.DataBitsShiftIn := by
  intro p hp d s
  simp only [List.mem_cons, List.not_mem_nil, or_false] at hp
  rcases hp with rfl | rfl | rfl | rfl | rfl | rfl | rfl | rfl <;> exact takeBit_shifts_down d _ s

/-- Settles O27: the check is on `xor8`, whose value the number of ones decides (R67). -/
theorem parityRule : Obligations.ParityRule := by
  refine fun d s => ⟨fun hodd => ?_, fun heven => ?_⟩
  · have hx := (parity_odd s.rxAcc d).mp hodd
    simp only [exec, execRxParity, if_pos hx, rxStop]
  · have hx : ¬(xor8 s.rxAcc ^^ d) = true := fun hx => by
      have := (parity_odd s.rxAcc d).mpr hx
      omega
    simp only [exec, execRxParity, if_neg hx, raiseFraming, rxError]

/-- Settles O28: RX_STOP in both bits (R68). -/
theorem stopBitRule : Obligations.StopBitRule := fun _ => ⟨rfl, rfl⟩

/-- Settles O29: neither row reads the bit (R69, R70). -/
theorem errorStateRules : Obligations.ErrorStateRules := fun _ _ _ => ⟨rfl, rfl⟩

/-! ### An edge that breaks the frame -/

/-- In ERROR a framing error only records its cause (R69). -/
theorem raiseFraming_in_error (c : FramingCause) (s : State) (h : s.rxState = rxError) :
    raiseFraming c s = observe (.framingError c) s := by
  rw [raiseFraming, ← h, observe]

/-- In ERROR and in the unused states the state rule raises the framing error STATE (R69, R70). -/
theorem receive_errorState (d : Bool) (s : State) (hh : s.handoff = none) (hst : 11#4 ≤ s.rxState) :
    receive d s = .next (raiseFraming .state s) := by
  rw [receive_eq d s hh, if_neg (by bv_omega), if_neg (by bv_omega), if_neg (by bv_omega), if_neg (by bv_omega)]
  split
  · next h => exact congrArg _ (raiseFraming_in_error .state s h).symm
  · rfl

/-- Settles O30: the state rule raises the framing error of its cause, and the final test recovers from it (R63). -/
theorem framingErrorRecoversInOneStep : Obligations.FramingErrorRecoversInOneStep := by
  intro s d es c hl hh hk he hbreak
  have hreceive : receive d { s with events := es } = .next (raiseFraming c { s with events := es }) := by
    rcases hbreak with hstart | hparity | hstop | ⟨rfl, hstate⟩
    · exact receive_framingError d c _ hh (.inl hstart)
    · exact receive_framingError d c _ hh (.inr (.inl hparity))
    · exact receive_framingError d c _ hh (.inr (.inr hstop))
    · exact receive_errorState d _ hh hstate
  rw [step_edge s d es hl hh hk he, hreceive]
  rfl

/-! ### Edges while disabled -/

/-- The step of an edge while the interface is disabled only takes it from the list (R61). -/
theorem step_edge_disabled (s : State) (d : Bool) (es : List Event) (hl : s.level = .event) (hh : s.handoff = none)
    (hk : s.kbdEnabled = false) (he : s.events = .edge d :: es) : step s = .next { s with events := es } := by
  simp [step_event s hl hh, he, applyEvent, edgeStep, hk]

/-- Settles O31, by induction on the list of edges. -/
theorem edgesWhileDisabledDoNothing : Obligations.EdgesWhileDisabledDoNothing := by
  intro ds es
  induction ds with
  | nil =>
    rintro s - - - rfl
    rfl
  | cons d ds ih =>
    intro s hl hh hk he
    exact (run_step ds.length s _ (step_edge_disabled s d _ hl hh hk he)).trans (ih _ hl hh hk rfl)

end Sys2Proof.Machine
end

section
/-! PROOFS. Whole frames, valid and malformed (R43, R64 to R68, R72, R73). -/

namespace Sys2Proof.Machine

/-! ### An edge that keeps to the frame -/

/-- A start bit of 0 leads to BIT0 (R64). -/
theorem receive_goodStart (s : State) (hh : s.handoff = none) (hst : s.rxState = 0#4) :
    receive false s = .next { s with rxState := 1#4, rxAcc := 0x00#8 } := by
  rw [receive_eq false s hh, if_pos hst]
  rfl

/-- A data bit is taken, and the receiver advances by one state (R65, R66). -/
theorem receive_dataBit (d : Bool) (s : State) (hh : s.handoff = none) (hlow : 1 ≤ s.rxState.toNat)
    (hhigh : s.rxState.toNat ≤ 8) : receive d s = .next (takeBit d (s.rxState + 1#4) s) := by
  rw [receive_eq d s hh, if_neg (by bv_omega), if_pos (by bv_omega)]

/-- A frame's own parity bit is the one that passes the check (R43, R67). -/
theorem parity_odd_iff_goodParity (b : Byte) (p : Bool) : (popcount b + p.toNat) % 2 = 1 ↔ p = goodParity b := by
  rw [parity_odd, goodParity]
  cases xor8 b <;> cases p <;> decide

/-- The accumulated byte's own parity bit leads to STOP (R67). -/
theorem receive_goodParity (s : State) (hh : s.handoff = none) (hst : s.rxState = 9#4) :
    receive (goodParity s.rxAcc) s = .next { s with rxState := 10#4 } := by
  simp only [receive_eq (goodParity s.rxAcc) s hh, hst]
  exact (parityRule _ s).1 ((parity_odd_iff_goodParity s.rxAcc _).mpr rfl)

/-- A stop bit of 1 runs the translator on the accumulated byte, in AWAIT_START (R68). -/
theorem receive_goodStop (s : State) (hh : s.handoff = none) (hst : s.rxState = 10#4) :
    receive true s = runTranslator { s with rxState := 0#4, handoff := some s.rxAcc } := by
  simp only [receive_eq true s hh, hst]
  rfl

/-! ### Runs of accepted edges -/

/-- The next edge of the event level is accepted (R61, R63). -/
structure AcceptsEdges (s : State) : Prop where
  level : s.level = .event
  handoff : s.handoff = none
  kbdEnabled : s.kbdEnabled = true

/-- An accepted edge whose state rule does not end in ERROR takes one step of a run (R63). -/
theorem run_edge (n : Nat) {d : Bool} {es : List Event} {s t : State} (h : AcceptsEdges s)
    (he : s.events = .edge d :: es) (hr : receive d { s with events := es } = .next t) (ht : t.rxState ≠ rxError) :
    core.run (n + 1) s = core.run n t := by
  refine run_step n s t ?_
  rw [step_edge s d es h.level h.handoff h.kbdEnabled he, hr, andThen_next, recoverIfError, if_neg ht]

/-- `s` after the data bits `ds` (R65, R66). -/
def State.afterBits (s : State) (ds : List Bool) (es : List Event) : State :=
  { s with rxState := s.rxState + BitVec.ofNat 4 ds.length, rxAcc := ds.foldl (flip shiftAcc) s.rxAcc, events := es }

/-- No data bit changes nothing. -/
theorem afterBits_nil (s : State) : s.afterBits [] s.events = s := by
  simp [State.afterBits]

/-- The first bit is taken, then the others. -/
theorem afterBits_cons (s : State) (d : Bool) (ds : List Bool) (es es' : List Event) :
    s.afterBits (d :: ds) es = (takeBit d (s.rxState + 1#4) { s with events := es' }).afterBits ds es := by
  have hst : s.rxState + BitVec.ofNat 4 (ds.length + 1) = s.rxState + 1#4 + BitVec.ofNat 4 ds.length := by
    rw [BitVec.add_assoc, Nat.add_comm, BitVec.ofNat_add]
  simp only [State.afterBits, List.length_cons, hst]
  rfl

/-- Data bits that stay within one byte enter the accumulator in order. -/
theorem run_dataBits (n : Nat) (es : List Event) (ds : List Bool) : ∀ s, AcceptsEdges s → 1 ≤ s.rxState.toNat →
    s.rxState.toNat + ds.length ≤ 9 → s.events = ds.map .edge ++ es →
    core.run (n + ds.length) s = core.run n (s.afterBits ds es) := by
  induction ds with
  | nil =>
    rintro s - - - rfl
    exact congrArg _ (afterBits_nil s).symm
  | cons d ds ih =>
    intro s h hlow hhigh he
    rw [List.length_cons] at hhigh
    have hnext : (s.rxState + 1#4).toNat = s.rxState.toNat + 1 := by bv_omega
    have hne : s.rxState + 1#4 ≠ rxError := by
      rw [rxError]
      bv_omega
    have hle : s.rxState.toNat ≤ 8 := by omega
    let u : State := { s with events := ds.map .edge ++ es }
    let t : State := takeBit d (s.rxState + 1#4) u
    calc core.run (n + (d :: ds).length) s
        = core.run (n + ds.length) t :=
          run_edge _ h he (receive_dataBit d u h.handoff hlow hle) hne
      _ = core.run n (t.afterBits ds es) :=
          ih t ⟨h.level, h.handoff, h.kbdEnabled⟩ (by rw [takeBit_rxState]; omega)
            (by rw [takeBit_rxState]; omega) rfl
      _ = core.run n (s.afterBits (d :: ds) es) := congrArg _ (afterBits_cons s d ds es _).symm

/-- The data bits of a frame lead from BIT0 to PARITY with the byte in the accumulator (R43). -/
theorem afterBits_lsbFirst (b : Byte) (s : State) (es : List Event) (hst : s.rxState = 1#4) :
    s.afterBits (lsbFirst b) es = { s with rxState := 9#4, rxAcc := b, events := es } := by
  have hacc : (lsbFirst b).foldl (flip shiftAcc) s.rxAcc = b := eight_shifts b s.rxAcc
  simp only [State.afterBits, hacc, hst]
  rfl

/-! ### Frames -/

section Frames
variable (n : Nat) (b : Byte) {p e : Bool} {es : List Event} {s : State} (h : AcceptsEdges s) (hst : s.rxState = 0#4)
include h hst

/-- A good start bit and eight data bits lead to PARITY. -/
theorem run_to_parity (he : s.events = .edge false :: ((lsbFirst b).map .edge ++ es)) :
    core.run (n + 9) s = core.run n { s with rxState := 9#4, rxAcc := b, events := es } := by
  let u : State := { s with events := (lsbFirst b).map .edge ++ es }
  let t : State := { u with rxState := 1#4, rxAcc := 0x00#8 }
  calc core.run (n + 9) s
      = core.run (n + 8) t :=
        run_edge (n + 8) h he (receive_goodStart u h.handoff hst) (by decide : 1#4 ≠ rxError)
    _ = core.run n (t.afterBits (lsbFirst b) es) :=
        run_dataBits n es (lsbFirst b) t ⟨h.level, h.handoff, h.kbdEnabled⟩ (by decide : 1 ≤ 1)
          (by decide : 1 + 8 ≤ 9) rfl
    _ = _ := congrArg _ (afterBits_lsbFirst b t es rfl)

/-- Ten edges of a frame with its own parity bit lead to STOP. -/
theorem run_to_stop (he : s.events = frameX b false (goodParity b) e ++ es) :
    core.run (n + 10) s = core.run n { s with rxState := 10#4, rxAcc := b, events := .edge e :: es } :=
  (run_to_parity (n + 1) b h hst he).trans <|
    run_edge n ⟨h.level, h.handoff, h.kbdEnabled⟩ rfl
      (receive_goodParity { s with rxState := 9#4, rxAcc := b, events := .edge e :: es } h.handoff rfl)
      (by decide : 10#4 ≠ rxError)

/-- A wrong parity bit is rejected at the tenth edge. -/
theorem run_bad_parity (hp : p ≠ goodParity b) (he : s.events = frameX b false p e ++ es) :
    core.run (n + 10) s = core.run n
      { s with rxState := 0#4, rxAcc := b, clkDriveLow := false, events := .edge e :: es,
               trace := .inhibitPulse :: .framingError .parity :: s.trace } := by
  have heven : (popcount b + p.toNat) % 2 = 0 :=
    Nat.mod_two_ne_one.mp (mt (parity_odd_iff_goodParity b p).mp hp)
  exact (run_to_parity (n + 1) b h hst he).trans <| run_step n _ _ <|
    framingErrorRecoversInOneStep _ p _ .parity h.level h.handoff h.kbdEnabled rfl (.inr (.inl ⟨rfl, rfl, heven⟩))

/-- A start bit of 1 is rejected at its own edge. -/
theorem run_bad_start (he : s.events = .edge true :: es) :
    core.run (n + 1) s = core.run n
      { s with rxState := 0#4, clkDriveLow := false, events := es,
               trace := .inhibitPulse :: .framingError .start :: s.trace } :=
  run_step n _ _ <|
    framingErrorRecoversInOneStep s true es .start h.level h.handoff h.kbdEnabled he (.inl ⟨rfl, hst, rfl⟩)

/-- A stop bit of 0 is rejected at the eleventh edge. -/
theorem run_bad_stop (he : s.events = frameX b false (goodParity b) false ++ es) :
    core.run (n + 11) s = core.run n
      { s with rxState := 0#4, rxAcc := b, clkDriveLow := false, events := es,
               trace := .inhibitPulse :: .framingError .stop :: s.trace } :=
  (run_to_stop (n + 1) b h hst he).trans <| run_step n _ _ <|
    framingErrorRecoversInOneStep _ false es .stop h.level h.handoff h.kbdEnabled rfl
      (.inr (.inr (.inl ⟨rfl, rfl, rfl⟩)))

end Frames

/-- Settles O32: ten edges lead to STOP, and the eleventh is the translator's step, which leaves the receiver alone
(R72). -/
theorem validFrameDeliversItsByte : Obligations.ValidFrameDeliversItsByte := by
  intro b es s hl hh hk hst he
  have h : AcceptsEdges s := ⟨hl, hh, hk⟩
  refine ⟨run_to_stop 0 b h hst he, ?_⟩
  obtain ⟨t, ht, ft⟩ := runTranslator_spec { s with rxAcc := b, handoff := some b, events := es }
  have hreceive : receive true { s with rxState := 10#4, rxAcc := b, events := es } = .next t := by
    rw [receive_goodStop { s with rxState := 10#4, rxAcc := b, events := es } hh rfl, ← ht, ← hst]
  have hrx : t.rxState = 0#4 := by rw [ft]; exact hst
  have hne : t.rxState ≠ rxError := by rw [hrx]; decide
  have hrun : core.run 11 s = .next t :=
    (run_to_stop 1 b h hst he).trans (run_edge 0 ⟨hl, hh, hk⟩ rfl hreceive hne)
  exact ⟨t, hrun, ht, hrx, by rw [ft], by rw [ft], by rw [ft], by rw [ft]⟩

/-- Settles O33: each frame is followed to the edge that rejects it (R73). -/
theorem malformedFrameIsRejected : Obligations.MalformedFrameIsRejected := by
  intro b p e es s hl hh hk hst
  have h : AcceptsEdges s := ⟨hl, hh, hk⟩
  rw [hst]
  refine ⟨fun rest he => ?_, fun hp he => ?_, fun he => ?_, fun he => ?_⟩
  · exact run_bad_start 0 h hst he
  · exact run_bad_parity 0 b h hst hp he
  · exact (run_bad_parity 1 b h hst (Bool.not_ne_self _) he).trans (run_bad_start 0 ⟨hl, hh, hk⟩ rfl rfl)
  · exact run_bad_stop 0 b h hst he

end Sys2Proof.Machine
end

section
/-! PROOFS. The operations the translator's rules share: the table lookup, the modifier codes and the push (R76 to R79,
R82, R87, R90). -/

namespace Sys2Proof.Machine

/-! ### The lookup (R76, R77, R87) -/

/-- Below 96 the lookup returns the entry of the selected table, unless it is null (R77). -/
theorem lookup_of_lt (mods b : Byte) (h : b.toNat < 96) : lookup mods b =
    if tableRead (tableSelect mods) ⟨b.toNat, h⟩ = 0x00#8 then none
    else some (tableRead (tableSelect mods) ⟨b.toNat, h⟩) := dif_pos h

/-- From 96 on there is no entry (R77). -/
theorem lookup_of_ge (mods b : Byte) (h : 96 ≤ b.toNat) : lookup mods b = none :=
  dif_neg (Nat.not_lt.mpr h)

/-- A character found is the entry of the selected table, and that entry is not null (R77). -/
theorem lookup_eq_some_iff (mods b v : Byte) : lookup mods b = some v ↔
    ∃ h : b.toNat < 96, v = tableRead (tableSelect mods) ⟨b.toNat, h⟩ ∧ v ≠ 0x00#8 := by
  by_cases h : b.toNat < 96
  · rw [lookup_of_lt mods b h]
    split <;> grind
  · simp [lookup_of_ge mods b (Nat.not_lt.mp h), h]

/-- An entry that rule R87 fixes is read as such, whatever the free entries are. -/
theorem tableRead_of_fixed {t : TableSel} {i : Fin Config.tableLen} {v : Byte} (h : fixedEntry t i = some v) :
    tableRead t i = v := by
  unfold tableRead
  rw [h]

/-- A modifier code has no character in either table (R87). -/
theorem lookup_modifierCode (mods b : Byte) (hb : b ∈ [0x11#8, 0x12#8, 0x14#8, 0x59#8]) : lookup mods b = none := by
  obtain ⟨h, hnull⟩ : ∃ h : b.toNat < 96, ∀ t, fixedEntry t ⟨b.toNat, h⟩ = some 0x00#8 := by
    simp only [List.mem_cons, List.not_mem_nil, or_false] at hb
    rcases hb with rfl | rfl | rfl | rfl <;> exact ⟨by decide, fun _ => rfl⟩
  rw [lookup_of_lt mods b h, if_pos (tableRead_of_fixed (hnull _))]

/-- The Escape code has no character: it lies past the tables (R82). -/
theorem lookup_escape (mods : Byte) : lookup mods 0x76#8 = none := lookup_of_ge mods _ (by decide)

/-- 0x1C gives the letter of the selected table (R87). -/
theorem lookup_letterA (mods : Byte) : lookup mods 0x1C#8 =
    some (if mods.getLsbD 0 = true ∨ mods.getLsbD 1 = true then 0x41#8 else 0x61#8) := by
  rw [lookup_of_lt mods _ (by decide), tableSelect]
  by_cases h : (mods.getLsbD 0 || mods.getLsbD 1) = true
  · rw [if_pos h, if_pos (Bool.or_eq_true_iff.mp h)]
    rfl
  · rw [if_neg h, if_neg (mt Bool.or_eq_true_iff.mpr h)]
    rfl

/-- Settles O36: each clause is one of the lookup's laws. -/
theorem lookupFollowsTables : Obligations.LookupFollowsTables := by
  refine ⟨lookup_of_ge, fun mods b h => ?_, lookup_letterA, lookup_modifierCode, fun mods mods' b h => ?_,
    fun mods b v h => ?_, fun mods b h => ?_⟩
  · obtain ⟨-, -, hne⟩ := (lookup_eq_some_iff mods b _).mp h
    exact hne rfl
  · have hsel : tableSelect mods = tableSelect mods' := by rw [tableSelect, h, tableSelect]
    rw [lookup, hsel, lookup]
  · obtain ⟨hb, hv, -⟩ := (lookup_eq_some_iff mods b v).mp h
    exact ⟨hb, hv⟩
  · exact ⟨fun hv => (lookup_of_lt mods b h).trans (if_neg hv), fun hv => (lookup_of_lt mods b h).trans (if_pos hv)⟩

/-! ### The modifier codes (R78, R79) -/

/-- Bit `k` of `mods` belongs to the modifier a code names, if it names one (R23). -/
def modifierBit (m : Option Modifier) (k : Nat) : Bool := m.elim false fun m => m.mask.getLsbD k

/-- Setting the modifier a code names. -/
theorem setModifier_bit (mods : Byte) (m : Option Modifier) (k : Nat) :
    (setModifier mods m).getLsbD k = (mods.getLsbD k || modifierBit m k) := by
  rw [getLsbD_setModifier]
  cases m <;> rfl

/-- Clearing the modifier a code names. -/
theorem clearModifier_bit (mods : Byte) (m : Option Modifier) (k : Nat) (hk : k < 8) :
    (clearModifier mods m).getLsbD k = (mods.getLsbD k && !modifierBit m k) := by
  rw [getLsbD_clearModifier mods m k hk]
  cases m <;> rfl

/-- A code map has the bits of a code list when it agrees with it on the listed codes and is empty elsewhere. -/
theorem modifierBit_of_codeList (codes : List (Byte × Nat)) (codeMap : Byte → Option Modifier)
    (hlisted : ∀ p ∈ codes, ∀ k < 8, modifierBit (codeMap p.1) k = codes.contains (p.1, k))
    (hother : ∀ b, b ∉ codes.map Prod.fst → codeMap b = none) (b : Byte) (k : Nat) (hk : k < 8) :
    modifierBit (codeMap b) k = codes.contains (b, k) := by
  by_cases hb : b ∈ codes.map Prod.fst
  · obtain ⟨p, hp, rfl⟩ := List.mem_map.mp hb
    exact hlisted p hp k hk
  · have hpair : (b, k) ∉ codes := fun hp => hb (List.mem_map_of_mem hp)
    rw [hother b hb, List.contains_eq_mem, decide_eq_false hpair]
    rfl

/-- The non-extended codes and their bits are those of the spec's list (R78). -/
theorem modmap_bit : ∀ (b : Byte) (k : Nat), k < 8 → modifierBit (modmap b) k = modifierCodes.contains (b, k) := by
  refine modifierBit_of_codeList modifierCodes modmap (by decide) fun b hb => ?_
  simp only [modifierCodes, List.map_cons, List.map_nil, List.mem_cons, List.not_mem_nil, or_false, not_or] at hb
  obtain ⟨hlshift, hrshift, hlctrl, hlalt⟩ := hb
  exact (if_neg hlalt).trans <| (if_neg hlshift).trans <| (if_neg hlctrl).trans (if_neg hrshift)

/-- The extended codes and their bits are those of the spec's list (R79; log 8). -/
theorem extmodmap_bit : ∀ (b : Byte) (k : Nat), k < 8 →
    modifierBit (extmodmap b) k = extModifierCodes.contains (b, k) := by
  refine modifierBit_of_codeList extModifierCodes extmodmap (by decide) fun b hb => ?_
  simp only [extModifierCodes, List.map_cons, List.map_nil, List.mem_cons, List.not_mem_nil, or_false, not_or] at hb
  obtain ⟨hrctrl, hralt, hlgui, hrgui⟩ := hb
  exact (if_neg hralt).trans <| (if_neg hrctrl).trans <| (if_neg hlgui).trans (if_neg hrgui)

/-- Clearing a modifier undoes that it was set. -/
theorem clearModifier_setModifier (mods : Byte) (m : Option Modifier) :
    clearModifier (setModifier mods m) m = clearModifier mods m := by
  refine BitVec.eq_of_getLsbD_eq fun k hk => ?_
  rw [clearModifier_bit _ _ _ hk, setModifier_bit, clearModifier_bit _ _ _ hk]
  cases mods.getLsbD k <;> cases modifierBit m k <;> rfl

/-! ### The push (R90) -/

/-- A push stores its value at the write cursor and advances the cursor mod CAP. -/
theorem pushedOnto_push (v : Byte) (s : State) : pushedOnto s v (push v s).buf (push v s).wr := by
  refine ⟨?_, fun j hj => ?_, ?_⟩
  · rw [push_buf, bufWrite, Vector.getElem?_set_self]
  · rw [push_buf, bufWrite, Vector.getElem?_set_ne _ hj.symm]
  · rw [push_wr, BitVec.toNat_add]
    rfl

end Sys2Proof.Machine
end

section
/-! PROOFS. The translator's rules, row by row, and the key sequences the spec names (R75, R80 to R88). -/

namespace Sys2Proof.Machine

/-! ### Prefixes, break codes and extended codes -/

/-- Settles O34: 0xF0 and 0xE0 have rows of their own (R80, R81, R84). -/
theorem prefixBytesSetKeyState : Obligations.PrefixBytesSetKeyState :=
  fun _ => ⟨⟨rfl, rfl⟩, ⟨rfl, rfl⟩, rfl, rfl⟩

/-- Settles O37: the code list decides which bit is cleared. -/
theorem breakClearsModifier : Obligations.BreakClearsModifier := by
  refine fun b s => ⟨decodeTr_trev 1#2 b, clearModifier s.mods (modmap b), rfl, fun k hk => ?_⟩
  rw [clearModifier_bit _ _ _ hk, modmap_bit b k hk]

/-- Settles O38: the extended code list decides which bit is set or cleared. -/
theorem extendedBytesRule : Obligations.ExtendedBytesRule := by
  refine fun b s => ⟨⟨setModifier s.mods (extmodmap b), rfl, fun k hk => ?_⟩,
    clearModifier s.mods (extmodmap b), rfl, fun k hk => ?_⟩
  · rw [setModifier_bit, extmodmap_bit b k hk]
  · rw [clearModifier_bit _ _ _ hk, extmodmap_bit b k hk]

/-! ### T_NORM_OTHER, case by case (R82) -/

/-- A byte with a character pushes it and does nothing else. -/
theorem execTrNormalOther_character {b v : Byte} {s : State} (h : lookup s.mods b = some v) :
    execTrNormalOther b s = .next (push v s) := by
  rw [execTrNormalOther, h]

/-- A byte without a character other than Escape sets the modifier it names. -/
theorem execTrNormalOther_modifier {b : Byte} {s : State} (h : lookup s.mods b = none) (hb : b ≠ 0x76#8) :
    execTrNormalOther b s = .next { s with mods := setModifier s.mods (modmap b) } := by
  rw [execTrNormalOther, h]
  exact congrArg _ (if_neg hb)

/-- Escape pushes the sentinel. -/
theorem execTrNormalOther_escape (s : State) : execTrNormalOther 0x76#8 s = .next (push 0x00#8 s) := by
  rw [execTrNormalOther, lookup_escape]
  rfl

/-- Settles O35: one rule for each of the three cases. -/
theorem normalByteRule : Obligations.NormalByteRule := by
  refine fun b s => ⟨fun v hv => ?_, fun hnone hb => ?_, ?_⟩
  · exact ⟨_, _, execTrNormalOther_character hv, pushedOnto_push v s⟩
  · refine ⟨_, execTrNormalOther_modifier hnone hb, fun k hk => ?_⟩
    rw [setModifier_bit, modmap_bit b k hk]
  · rintro rfl
    exact ⟨_, _, execTrNormalOther_escape s, pushedOnto_push 0x00#8 s⟩

/-! ### At most one push (R75, R88) -/

/-- T_NORM_OTHER pushes nothing or one entry (R82). -/
theorem execTrNormalOther_pushes {b : Byte} {s t : State} (h : execTrNormalOther b s = .next t) :
    (t.buf = s.buf ∧ t.wr = s.wr) ∨ ∃ v, pushedOnto s v t.buf t.wr := by
  by_cases hb : b = 0x76#8
  · rw [hb, execTrNormalOther_escape] at h
    cases h
    exact .inr ⟨_, pushedOnto_push _ s⟩
  · cases hl : lookup s.mods b with
    | none =>
      rw [execTrNormalOther_modifier hl hb] at h
      cases h
      exact .inl ⟨rfl, rfl⟩
    | some v =>
      rw [execTrNormalOther_character hl] at h
      cases h
      exact .inr ⟨v, pushedOnto_push v s⟩

/-- The translator's step for a byte pushes nothing, or one entry in NORMAL: only T_NORM_OTHER pushes. -/
theorem runTranslator_pushes {b : Byte} {s t : State} (h : runTranslator { s with handoff := some b } = .next t) :
    (t.buf = s.buf ∧ t.wr = s.wr) ∨ (s.kstate = 0#2 ∧ ∃ v, pushedOnto s v t.buf t.wr) := by
  rw [runTranslator_some b _ rfl] at h
  split_ifs at h with hnormal
  case neg => exact (execTrNormalOther_pushes h).imp id (⟨hnormal, ·⟩)
  all_goals
    cases h
    exact .inl ⟨rfl, rfl⟩

/-- Settles O39: the step's frame, with what it can push. -/
theorem translatorPushesAtMostOne : Obligations.TranslatorPushesAtMostOne := by
  intro b s
  obtain ⟨t, ht, hframe⟩ := runTranslator_spec { s with handoff := some b }
  exact ⟨t, ht, hframe, runTranslator_pushes ht⟩

/-! ### Sequences from NORMAL (R88) -/

section Sequences
variable {s : State} (hk : s.kstate = 0#2) (hh : s.handoff = none)
include hk hh

/-- Back in NORMAL with no byte handed over, only `mods` may differ. -/
theorem normal_withMods (m : Byte) :
    ({ s with handoff := none, mods := m, kstate := 0#2 } : State) = { s with mods := m } := by
  rw [← hk, ← hh]

/-- A break sequence clears the modifier its code names. -/
theorem translateBytes_breakSequence (c : Byte) :
    translateBytes [0xF0#8, c] s = .next { s with mods := clearModifier s.mods (modmap c) } := by
  rw [translateBytes_normal_f0 [c] s hk, translateBytes_break c [] _ rfl]
  exact congrArg _ (normal_withMods hk hh _)

/-- An extended make sequence sets the modifier its code names. -/
theorem translateBytes_extMakeSequence (c : Byte) (hc : c ≠ 0xF0#8) :
    translateBytes [0xE0#8, c] s = .next { s with mods := setModifier s.mods (extmodmap c) } := by
  rw [translateBytes_normal_e0 [c] s hk, translateBytes_ext_other c [] _ rfl hc]
  exact congrArg _ (normal_withMods hk hh _)

/-- An extended break sequence clears the modifier its code names. -/
theorem translateBytes_extBreakSequence (c : Byte) :
    translateBytes [0xE0#8, 0xF0#8, c] s = .next { s with mods := clearModifier s.mods (extmodmap c) } := by
  rw [translateBytes_normal_e0 [0xF0#8, c] s hk, translateBytes_ext_f0 [c] _ rfl, translateBytes_extbreak c [] _ rfl]
  exact congrArg _ (normal_withMods hk hh _)

/-- A make byte's step. -/
theorem translateBytes_make (c : Byte) (bs : List Byte) (hf0 : c ≠ 0xF0#8) (he0 : c ≠ 0xE0#8) :
    translateBytes (c :: bs) s = andThen (execTrNormalOther c s) (translateBytes bs) := by
  have hs : { s with handoff := none } = s := by rw [← hh]
  rw [translateBytes_normal_other c bs s hk hf0 he0, hs]

/-- Make and break of left shift leave its bit clear (R88 (1)). -/
theorem translateBytes_leftShift :
    translateBytes [0x12#8, 0xF0#8, 0x12#8] s = .next { s with mods := s.mods &&& 0xFE#8 } := by
  let t : State := { s with mods := setModifier s.mods (modmap 0x12#8) }
  have hmake : execTrNormalOther 0x12#8 s = .next t :=
    execTrNormalOther_modifier (lookup_modifierCode s.mods 0x12#8 (by decide)) (by decide)
  calc translateBytes [0x12#8, 0xF0#8, 0x12#8] s
      = translateBytes [0xF0#8, 0x12#8] t := by
        rw [translateBytes_make hk hh 0x12#8 _ (by decide) (by decide), hmake, andThen_next]
    _ = .next { s with mods := clearModifier t.mods (modmap 0x12#8) } :=
        translateBytes_breakSequence (s := t) hk hh 0x12#8
    _ = .next { s with mods := s.mods &&& 0xFE#8 } := by
        rw [clearModifier_setModifier]
        rfl

/-- Make and break of Escape push the sentinel once (R88 (3)). -/
theorem translateBytes_escape : translateBytes [0x76#8, 0xF0#8, 0x76#8] s = .next (push 0x00#8 s) := by
  rw [translateBytes_make hk hh 0x76#8 _ (by decide) (by decide), execTrNormalOther_escape, andThen_next]
  exact translateBytes_breakSequence (s := push 0x00#8 s) hk hh 0x76#8

end Sequences

/-- Settles O41: the sequences of left shift, right ctrl and Escape (R88). -/
theorem sourceKeyProperties : Obligations.SourceKeyProperties := by
  refine fun s hk hh => ⟨translateBytes_leftShift hk hh, ?_, ?_, ?_, ?_⟩
  · exact translateBytes_extMakeSequence hk hh 0x14#8 (by decide)
  · exact translateBytes_extBreakSequence hk hh 0x14#8
  · exact ⟨_, _, translateBytes_escape hk hh, pushedOnto_push 0x00#8 s⟩
  · exact translateBytes_breakSequence hk hh 0x76#8

end Sys2Proof.Machine
end

section
/-! PROOFS. The buffer: what RXREAD and RXCOUNT answer, and the unread entries as a queue of at most CAP - 1 values,
which CAP pushes leave empty (R89 to R95). -/

namespace Sys2Proof.Machine

/-! ### The occupancy (R89) -/

/-- The occupancy is the cursor difference modulo CAP, on the integers. -/
theorem toNat_occupancy (wr rd : Cursor) :
    ((occupancy wr rd).toNat : Int) = ((wr.toNat : Int) - rd.toNat) % Config.cap := by
  have hrd := rd.isLt
  rw [occupancy, BitVec.toNat_sub, Config.cap]
  omega

/-- The occupancy is 0 exactly for an empty buffer. -/
theorem occupancy_eq_zero_iff (wr rd : Cursor) : (occupancy wr rd).toNat = 0 ↔ wr = rd := by
  revert wr rd
  decide

/-- Passing over an unread entry takes one off the occupancy. -/
theorem occupancy_of_ne (wr rd : Cursor) (h : wr ≠ rd) :
    (occupancy wr rd).toNat = (occupancy wr (rd + 1#3)).toNat + 1 := by
  revert wr rd
  decide

/-! ### RXREAD and RXCOUNT -/

/-- RXREAD of an empty buffer only responds, with `OK = 0` (R91). -/
theorem exec_rxread_empty (a b : Byte) (s : State) (h : s.wr = s.rd) :
    exec (.rxread a b) s = .next (respond false false 0x00#8 s) := by
  simp only [exec, execRxread, if_pos h]

/-- RXREAD otherwise responds with the entry at `rd`, which advances (R91). -/
theorem exec_rxread_unread (a b : Byte) (s : State) (h : s.wr ≠ s.rd) :
    exec (.rxread a b) s = .next (respond true false (bufRead s.buf s.rd) { s with rd := s.rd + 1#3 }) := by
  simp only [exec, execRxread, if_neg h]

/-- RXCOUNT of an empty buffer answers 0 (R92). -/
theorem exec_rxcount_empty (a b : Byte) (s : State) (h : s.wr = s.rd) :
    exec (.rxcount a b) s = .next (respond true false 0x00#8 s) := by
  have hzero : occupancy s.wr s.rd = 0#3 := BitVec.eq_of_toNat_eq ((occupancy_eq_zero_iff s.wr s.rd).mpr h)
  simp only [exec, execRxcount, hzero]
  rfl

/-- Settles O14: command code 1 is RXREAD, in its two cases. -/
theorem rxreadReturnsOldestEntry : Obligations.RxreadReturnsOldestEntry := by
  refine fun a b s => ⟨decodeCmd_cmdWord _ _ a b, exec_rxread_empty a b s, fun hne => ?_⟩
  refine ⟨_, _, exec_rxread_unread a b s hne, rspErr_mkRsp _ _ _, rspOk_mkRsp _ _ _, ?_, BitVec.toNat_add _ _⟩
  rw [rspData_mkRsp, bufRead]
  exact Vector.getElem?_eq_getElem s.rd.isLt

/-- Settles O15: command code 2 is RXCOUNT, which answers the occupancy. -/
theorem rxcountReturnsOccupancy : Obligations.RxcountReturnsOccupancy := by
  refine fun a b s => ⟨decodeCmd_cmdWord _ _ a b, _, rfl, rspErr_mkRsp _ _ _, rspOk_mkRsp _ _ _, ?_⟩
  rw [rspData_mkRsp, BitVec.toNat_setWidth_of_le (by decide)]
  exact toNat_occupancy s.wr s.rd

/-! ### Pushes in order (R90, R93) -/

/-- Settles O42: `push` writes no other field. -/
theorem pushStoresAndAdvances : Obligations.PushStoresAndAdvances :=
  fun v s => ⟨_, _, rfl, pushedOnto_push v s⟩

/-- Pushes change nothing but the buffer's write side. -/
theorem pushAll_frame (vs : List Byte) : ∀ s,
    pushAll vs s = { s with buf := (pushAll vs s).buf, wr := (pushAll vs s).wr } := by
  induction vs with
  | nil => exact fun _ => rfl
  | cons v vs ih => exact fun s => ih (push v s)

section PushAllFields
variable (vs : List Byte) (s : State)

@[simp] theorem pushAll_level : (pushAll vs s).level = s.level := by rw [pushAll_frame]
@[simp] theorem pushAll_handoff : (pushAll vs s).handoff = s.handoff := by rw [pushAll_frame]
@[simp] theorem pushAll_trace : (pushAll vs s).trace = s.trace := by rw [pushAll_frame]

end PushAllFields

/-- Pushes of two lists, one after the other. -/
theorem pushAll_append (us vs : List Byte) : ∀ s, pushAll (us ++ vs) s = pushAll vs (pushAll us s) := by
  induction us with
  | nil => exact fun _ => rfl
  | cons u us ih => exact fun s => ih (push u s)

/-- Pushes add to the occupancy mod CAP. -/
theorem occupancy_pushAll (vs : List Byte) : ∀ s, (occupancy (pushAll vs s).wr (pushAll vs s).rd).toNat =
    ((occupancy s.wr s.rd).toNat + vs.length) % Config.cap := by
  induction vs with
  | nil => exact fun s => (Nat.mod_eq_of_lt (occupancy s.wr s.rd).isLt).symm
  | cons v vs ih =>
    intro s
    rw [pushAll, ih, occupancy_push, BitVec.toNat_add, List.length_cons]
    simp only [Config.cap, BitVec.toNat_ofNat]
    omega

/-- A multiple of CAP pushes leaves an empty buffer empty (R93). -/
theorem pushAll_wraps (vs : List Byte) (s : State) (hempty : s.wr = s.rd) (hlen : vs.length % Config.cap = 0) :
    (pushAll vs s).wr = (pushAll vs s).rd := by
  rw [← occupancy_eq_zero_iff, occupancy_pushAll, (occupancy_eq_zero_iff s.wr s.rd).mpr hempty, Nat.zero_add, hlen]

/-! ### The unread entries as a queue -/

/-- The unread entries of a buffer, in order from the read cursor, are the values listed (R89). -/
def holdsUnread (wr : Cursor) (buf : Vector Byte Config.cap) : Cursor → List Byte → Prop
  | rd, [] => wr = rd
  | rd, v :: vs => wr ≠ rd ∧ bufRead buf rd = v ∧ holdsUnread wr buf (rd + 1#3) vs

/-- There are as many unread entries as the occupancy says. -/
theorem occupancy_of_holdsUnread {wr : Cursor} {buf : Vector Byte Config.cap} {us : List Byte} :
    ∀ {rd}, holdsUnread wr buf rd us → (occupancy wr rd).toNat = us.length := by
  induction us with
  | nil => exact fun h => (occupancy_eq_zero_iff wr _).mpr h
  | cons u us ih =>
    rintro rd ⟨hne, -, hrest⟩
    rw [occupancy_of_ne wr rd hne, ih hrest, List.length_cons]

/-- With room left, the cursor after a push is not the read cursor. -/
theorem next_ne_of_room (wr rd : Cursor) (h : (occupancy wr rd).toNat < Config.cap - 1) : wr + 1#3 ≠ rd := by
  revert wr rd
  decide

/-- With room left, a push appends its value (R95). -/
theorem holdsUnread_push (v : Byte) {wr : Cursor} {buf : Vector Byte Config.cap} {us : List Byte} :
    ∀ {rd}, holdsUnread wr buf rd us → us.length < Config.cap - 1 →
      holdsUnread (wr + 1#3) (bufWrite buf wr v) rd (us ++ [v]) := by
  induction us with
  | nil =>
    rintro rd rfl -
    exact ⟨next_ne_of_room wr wr (by simp [occupancy]), bufRead_bufWrite_same buf wr v, rfl⟩
  | cons u us ih =>
    intro rd h hroom
    have hnext : wr + 1#3 ≠ rd := next_ne_of_room wr rd (occupancy_of_holdsUnread h ▸ hroom)
    obtain ⟨hne, hread, hrest⟩ := h
    refine ⟨hnext, ?_, ih hrest (Nat.lt_of_succ_lt hroom)⟩
    rw [bufRead_bufWrite_other _ _ _ _ hne, hread]

/-- As long as there is room, pushes append their values in order (R95). -/
theorem holdsUnread_pushAll (vs : List Byte) : ∀ (us : List Byte) (s : State), holdsUnread s.wr s.buf s.rd us →
    us.length + vs.length < Config.cap →
    holdsUnread (pushAll vs s).wr (pushAll vs s).buf (pushAll vs s).rd (us ++ vs) := by
  induction vs with
  | nil => exact fun us s h _ => (List.append_nil us).symm ▸ h
  | cons v vs ih =>
    intro us s h hroom
    rw [List.length_cons] at hroom
    rw [List.append_cons]
    refine ih (us ++ [v]) (push v s) (holdsUnread_push v h (by omega)) ?_
    rw [List.length_append, List.length_singleton]
    omega

/-- Pushes to an empty buffer leave the last ones unread when those before them come to a multiple of CAP (R93). -/
theorem holdsUnread_overflow (old vs : List Byte) (s : State) (hempty : s.wr = s.rd)
    (hold : old.length % Config.cap = 0) (hvs : vs.length < Config.cap) :
    holdsUnread (pushAll (old ++ vs) s).wr (pushAll (old ++ vs) s).buf (pushAll (old ++ vs) s).rd vs := by
  rw [pushAll_append]
  exact holdsUnread_pushAll vs [] (pushAll old s) (pushAll_wraps old s hempty hold) (by simpa using hvs)

/-! ### Runs of RXREAD -/

/-- The step of an RXREAD at the head of the list (R91). -/
theorem step_rxread {es : List Event} {s : State} (hl : s.level = .event) (hh : s.handoff = none)
    (he : s.events = .cmd wordRxread :: es) : step s = exec (.rxread 0#8 0#8) { s with events := es } :=
  stepRunsDecodedCommand s wordRxread es hl hh he

/-- `s` after RXREADs that answer the values `vs` and empty the buffer. -/
def State.afterReads (s : State) (vs : List Byte) (es : List Event) : State :=
  { s with rd := s.wr, rsp := vs.foldl (fun _ v => mkRsp true false v) s.rsp,
           trace := (readResponses vs).reverse ++ s.trace, events := es }

/-- No RXREAD on an empty buffer changes nothing. -/
theorem afterReads_nil (s : State) (h : s.wr = s.rd) : s.afterReads [] s.events = s :=
  congrArg (fun rd => ({ s with rd := rd } : State)) h

/-- The first RXREAD responds, then the others. -/
theorem afterReads_cons (s : State) (rd : Cursor) (v : Byte) (vs : List Byte) (es es' : List Event) :
    s.afterReads (v :: vs) es = (respond true false v { s with rd := rd, events := es' }).afterReads vs es := by
  simp [State.afterReads, readResponses, respond]

/-- RXREADs answer the unread entries in order (R91, R95). -/
theorem run_reads (n : Nat) (es : List Event) (vs : List Byte) : ∀ s : State,
    s.level = .event → s.handoff = none → holdsUnread s.wr s.buf s.rd vs →
    s.events = List.replicate vs.length (.cmd wordRxread) ++ es →
    core.run (n + vs.length) s = core.run n (s.afterReads vs es) := by
  induction vs with
  | nil =>
    rintro s - - hempty rfl
    exact congrArg _ (afterReads_nil s hempty).symm
  | cons v vs ih =>
    rintro s hl hh ⟨hne, rfl, hrest⟩ he
    let later : List Event := List.replicate vs.length (.cmd wordRxread) ++ es
    let t : State := respond true false (bufRead s.buf s.rd) { s with rd := s.rd + 1#3, events := later }
    have hstep : step s = .next t :=
      (step_rxread hl hh he).trans (exec_rxread_unread _ _ { s with events := later } hne)
    calc core.run (n + (bufRead s.buf s.rd :: vs).length) s
        = core.run (n + vs.length) t := run_step _ s t hstep
      _ = core.run n (t.afterReads vs es) := ih t hl hh hrest rfl
      _ = core.run n (s.afterReads (bufRead s.buf s.rd :: vs) es) :=
          congrArg _ (afterReads_cons s _ _ vs es later).symm

/-- Settles O44: the first pushes come to a multiple of CAP, so the last ones are the unread entries. -/
theorem overflowKeepsLastEntries : Obligations.OverflowKeepsLastEntries := by
  refine ⟨occupancy_pushAll, fun old vs es s hl hh hempty hlen => ?_⟩
  have hvs : vs.length < Config.cap := hlen ▸ Nat.mod_lt _ (by decide)
  have hold : old.length % Config.cap = 0 := by
    simp only [List.length_append, Config.cap] at hlen ⊢
    omega
  let p : State := { pushAll (old ++ vs) s with
    events := List.replicate vs.length (.cmd wordRxread) ++ .cmd wordRxread :: es }
  have hlevel : p.level = .event := (pushAll_level _ s).trans hl
  have hhandoff : p.handoff = none := (pushAll_handoff _ s).trans hh
  let t : State := p.afterReads vs (.cmd wordRxread :: es)
  have hlast : step t = .next (respond false false 0x00#8 { t with events := es }) :=
    (step_rxread (s := t) hlevel hhandoff rfl).trans (exec_rxread_empty _ _ { t with events := es } rfl)
  refine ⟨respond false false 0x00#8 { t with events := es }, ?_, ?_, rfl⟩
  · rw [List.replicate_succ', List.append_assoc, Nat.add_comm]
    exact (run_reads 1 _ vs p hlevel hhandoff (holdsUnread_overflow old vs s hempty hold hvs) rfl).trans
      (run_step 0 t _ hlast)
  · rw [← pushAll_trace (old ++ vs) s]
    rfl

/-- Settles O43: up to CAP - 1 values are the unread entries, and CAP pushes leave the buffer empty. -/
theorem fifoOrder : Obligations.FifoOrder := by
  refine fun vs es s hl hh hempty => ⟨fun hlen => ?_, fun hlen => ?_⟩
  · have hunread := holdsUnread_overflow [] vs s hempty rfl (Nat.lt_of_le_pred (by decide) hlen)
    have hrun := run_reads 0 es vs
      { pushAll vs s with events := List.replicate vs.length (.cmd wordRxread) ++ es }
      ((pushAll_level vs s).trans hl) ((pushAll_handoff vs s).trans hh) hunread rfl
    rw [Nat.zero_add] at hrun
    exact ⟨_, hrun, congrArg _ (pushAll_trace vs s), rfl, _, exec_rxcount_empty _ _ _ rfl, rfl⟩
  · have hwrap : (pushAll vs s).wr = (pushAll vs s).rd := pushAll_wraps vs s hempty (hlen ▸ Nat.mod_self _)
    exact ⟨⟨_, exec_rxcount_empty _ _ _ hwrap, rfl⟩, _, exec_rxread_empty _ _ _ hwrap, rfl, hwrap⟩

end Sys2Proof.Machine
end

section
/-! PROOFS. The control commands and the illegal words at the event level: what each answers and what it leaves alone
(R97 to R101). -/

namespace Sys2Proof.Machine

/-- Settles O13: command code 0 is NOP, which only responds. -/
theorem nopOnlyResponds : Obligations.NopOnlyResponds :=
  fun a b _ => ⟨decodeCmd_cmdWord _ _ a b, rfl⟩

/-- Settles O16: command code 3 is KBDOFF, which writes two registers and responds. -/
theorem kbdoffDisables : Obligations.KbdoffDisables :=
  fun a b _ => ⟨decodeCmd_cmdWord _ _ a b, rfl⟩

/-- The input side re-initialised by KBDON, `KBDON_REINIT` being FULL (R98, log 9). -/
def State.reinitialised (s : State) : State :=
  { s with rxState := rxAwaitStart, rxAcc := 0x00#8, kstate := ksNormal, mods := 0x00#8, wr := 0#3, rd := 0#3,
           edgePending := false, clkDriveLow := false, kbdEnabled := true }

/-- KBDON re-initialises the input side and responds (R98). -/
theorem exec_kbdon (a b : Byte) (s : State) :
    exec (.kbdon a b) s = .next (respond true false 0x00#8 s.reinitialised) := rfl

/-- Settles O17: command code 4 is KBDON, which writes the input side and no buffer entry. -/
theorem kbdonReinitialises : Obligations.KbdonReinitialises :=
  fun a b s => ⟨decodeCmd_cmdWord _ _ a b, exec_kbdon a b s⟩

/-! ### STATUS -/

/-- The bits of a byte whose two lowest are `y`, `x` and whose others are 0 (R99). -/
theorem getLsbD_cat_bits (x y : Bool) (k : Nat) :
    (cat (BitVec.ofBool x) (BitVec.ofBool y) : Byte).getLsbD k = if k = 0 then y else if k = 1 then x else false := by
  rw [getLsbD_cat]
  match k with
  | 0 => simp
  | 1 => simp
  | k + 2 => simp

/-- Settles O21: command code 7 is STATUS, which answers with the two flags. -/
theorem statusReportsFlags : Obligations.StatusReportsFlags := by
  refine fun a b s => ⟨decodeCmd_cmdWord _ _ a b, _, rfl, rspErr_mkRsp _ _ _, rspOk_mkRsp _ _ _, ?_⟩
  simp only [rspData_mkRsp, getLsbD_cat_bits]
  refine ⟨rfl, rfl, fun k hk => ?_⟩
  rw [if_neg (by omega), if_neg (by omega)]

/-! ### Illegal words -/

/-- Both illegal instructions answer `ERR` and change nothing else (R101). -/
theorem exec_illegal (i : Instr) (s : State) (h : isIllegal i = true) :
    exec i s = .next (respond false true 0x00#8 s) := by
  cases i with
  | reservedOp | reservedRsv => rfl
  | _ => cases h

/-- Settles O22: exactly the words with bit 23 or a reserved bit set decode to an illegal instruction. -/
theorem illegalWordsAnswerErr : Obligations.IllegalWordsAnswerErr :=
  ⟨fun w s h => exec_illegal _ s ((isIllegal_decodeCmd w).mpr h), fun _ _ _ _ s => exec_illegal _ s rfl,
    fun _ _ _ _ s => exec_illegal _ s rfl⟩

end Sys2Proof.Machine
end

section
/-! PROOFS. A host that keeps the bracket never brings about a fault (R102, R112, R127): LINKTX is the one instruction
that can fail to complete, and each stimulus leaves `kbd_enabled` as the bracket says. -/

namespace Sys2Proof.Machine

/-- `kbd_enabled` after a command, as the bracket sees it (R97, R98). -/
def enabledAfter (i : Instr) (en : Bool) : Bool := isKbdon (some i) || (!isKbdoff (some i) && en)

/-- A command keeps the bracket when it is no LINKTX of an enabled interface and the rest keeps it afterwards. -/
theorem bracketed_cmd (en : Bool) (w : CmdWord) (es : List Event) : bracketed en (.cmd w :: es) =
    (!(isLinktx (some (decodeCmd w)) && en) && bracketed (enabledAfter (decodeCmd w) en) es) := by
  rw [bracketed]
  cases decodeCmd w <;> rfl

/-- A command that completes leaves `kbd_enabled` as the bracket says. -/
theorem exec_cmd_kbdEnabled (i : Instr) (s t : State) (hf : (encode i).format = .hostCmd)
    (ht : exec i s = .next t) : t.kbdEnabled = enabledAfter i s.kbdEnabled := by
  rcases exec_cmd_inputSide i s t hf ht with ⟨he, ft⟩ | ⟨hoff, ft⟩ | ⟨hon, ft⟩ <;> rw [ft]
  · rw [endsService_eq, Bool.or_eq_false_iff] at he
    simp [enabledAfter, he]
  · cases i with
    | kbdoff => rfl
    | _ => cases hoff
  · simp [enabledAfter, hon]

/-- The first stimulus completes where the host keeps the bracket, and the rest keeps it afterwards. -/
theorem applyEvent_bracketed (e : Event) (es : List Event) (s : State) (hh : s.handoff = none)
    (h : bracketed s.kbdEnabled (e :: es) = true) :
    ∃ t, applyEvent e s = .next t ∧ bracketed t.kbdEnabled es = true := by
  cases e with
  | edge d =>
    obtain ⟨t, ht, ft⟩ := edgeStep_spec d s hh
    exact ⟨t, ht, by rw [ft]; exact h⟩
  | cmd w =>
    rw [bracketed_cmd, Bool.and_eq_true, Bool.not_eq_true'] at h
    obtain ⟨hlink, hrest⟩ := h
    rcases exec_decodeCmd w s with ⟨t, ht, -⟩ | ⟨⟨a, f, hw⟩, hforbidden, -⟩
    · exact ⟨t, ht, exec_cmd_kbdEnabled _ s t (format_decodeCmd w) ht ▸ hrest⟩
    · have hdisabled : s.kbdEnabled = false := by simpa [hw, isLinktx] using hlink
      simp [linkForbidden, hdisabled] at hforbidden
  | pin b => exact ⟨_, rfl, h⟩
  | reset => exact ⟨_, rfl, h⟩

/-- The first step of such a run completes, and the run goes on under the same conditions. -/
theorem step_bracketed (s : State) (hl : s.level = .event) (hh : s.handoff = none)
    (h : bracketed s.kbdEnabled s.events = true) :
    ∃ t, step s = .next t ∧ t.level = .event ∧ t.handoff = none ∧ bracketed t.kbdEnabled t.events = true := by
  rw [step_event s hl hh]
  cases he : s.events with
  | nil => exact ⟨s, rfl, hl, hh, h⟩
  | cons e es =>
    obtain ⟨t, ht, hrest⟩ := applyEvent_bracketed e es { s with events := es } hh (he ▸ h)
    obtain ⟨hlevel, hevents, -, hhandoff⟩ := applyEvent_keeps e { s with events := es } t hh ht
    exact ⟨t, ht, hlevel.trans hl, hhandoff, hevents ▸ hrest⟩

/-- Settles O50, by induction on the number of steps. -/
theorem bracketedHostNeverFaults : Obligations.BracketedHostNeverFaults := by
  intro n
  induction n with
  | zero => exact fun s _ _ _ => ⟨s, rfl⟩
  | succ n ih =>
    intro s hl hh h
    obtain ⟨t, ht, htl, hth, hrest⟩ := step_bracketed s hl hh h
    rw [run_step n s t ht]
    exact ih t htl hth hrest

end Sys2Proof.Machine
end

section
/-! PROOFS. KBDOFF and KBDON during an edge service end it in their own cycle (R98, R135, R138). -/

namespace Sys2Proof.Machine

/-- Whether the command of a cycle ends a service is decided before it (R138). -/
theorem serviceEnded_iff (i : CycleIn) (s : State) :
    serviceEnded i s = true ↔ endsService (cycleCmd i) = true ∧ s.cyc.svc ≠ .idle := by
  simp [serviceEnded]

/-- No fall is latched in the cycle of a KBDON or of a command that ends a service (R138, log 15). -/
theorem latchFall_bracket (i : CycleIn) (b s : State) (h : isKbdon (cycleCmd i) = true ∨ serviceEnded i b = true) :
    latchFall i b s = s := by
  rcases h with h | h <;> simp [latchFall, h]

/-- Such a cycle is its command part, its service part, its link part and the sampling of the lines. -/
theorem clockCycle_bracket (p : Config.Timing) (i : CycleIn) (s t u : State) (hr : i.rst = false)
    (h : isKbdon (cycleCmd i) = true ∨ serviceEnded i s = true)
    (ht : cycleCommand p i { s with busyPin := i.busy } = .next t)
    (hu : cycleService p i (s.cyc.dataSync.getLsbD 1) t = .next u) :
    clockCycle p i s = .next (cycleEnd i (linkCycle p s.cyc.lkPhase u).edgePending (linkCycle p s.cyc.lkPhase u)) := by
  rw [clockCycle_run p i s hr, runCycle_eq p i _ t u ht hu, latchFall_bracket i { s with busyPin := i.busy } _ h]
  rfl

/-- The end of a service drops it in SETTLE, and completes the recovery in INHIBIT and BLANK (R138). -/
theorem endService_rxState (s : State) (h : s.cyc.svc ≠ .idle) :
    (endService s).rxState = if s.cyc.svc = .settle then s.rxState else rxAwaitStart := by
  cases hs : s.cyc.svc with
  | idle => exact absurd hs h
  | settle | inhibit | blank => simp [endService, hs]

/-- The service part ends a service in progress. -/
theorem cycleService_ended (p : Config.Timing) (i : CycleIn) (d : Bool) (s : State) (h : serviceEnded i s = true) :
    cycleService p i d s = .next (endService s) := if_pos h

/-- The service part stays in IDLE where no edge is pending (R136). -/
theorem cycleService_idle (p : Config.Timing) (i : CycleIn) (d : Bool) (s : State) (hs : s.cyc.svc = .idle)
    (he : s.edgePending = false) : cycleService p i d s = .next s := by
  simp [cycleService, serviceEnded, serviceCycle, hs, he]

/-- The service part after KBDON leaves no service and no pending edge, and the receiver in AWAIT_START (R138). -/
theorem cycleService_kbdon (p : Config.Timing) (i : CycleIn) (d : Bool) (s : State)
    (hc : endsService (cycleCmd i) = true) (he : s.edgePending = false) (hrx : s.rxState = rxAwaitStart) :
    ∃ u, cycleService p i d s = .next u ∧ u.cyc.svc = .idle ∧ (s.cyc.svc ≠ .idle → u.cyc.svcTimer = 0) ∧
      u = { s with rxState := rxAwaitStart, edgePending := false, cyc := u.cyc } := by
  by_cases hs : s.cyc.svc = .idle
  · exact ⟨s, cycleService_idle p i d s hs he, hs, fun hn => absurd hs hn, by rw [← hrx, ← he]⟩
  · have hstate : (endService s).rxState = rxAwaitStart := by rw [endService_rxState s hs, hrx, ite_self]
    refine ⟨_, cycleService_ended p i d s ((serviceEnded_iff i s).mpr ⟨hc, hs⟩), rfl, fun _ => rfl, ?_⟩
    rw [← hstate]
    rfl

/-- Settles O57: after either command the service part leaves IDLE with no edge pending, and neither the link part nor
edge detection touches the input side. -/
theorem bracketCommandEndsService : Obligations.BracketCommandEndsService := by
  refine fun p i s a b hr => ⟨fun hc hs => ?_, fun hc hbusy => ?_⟩
  · have hends : endsService (cycleCmd i) = true := by rw [hc]; rfl
    have hended : ∀ t : State, t.cyc.svc = s.cyc.svc → serviceEnded i t = true :=
      fun t ht => (serviceEnded_iff i t).mpr ⟨hends, ht ▸ hs⟩
    have hcommand := cycleCommand_some p i { s with busyPin := i.busy } _ _ hc rfl
    refine ⟨_, clockCycle_bracket p i s _ _ hr (.inr (hended s rfl)) hcommand
      (cycleService_ended p i _ _ (hended _ rfl)), ?_⟩
    rw [linkCycle_frame]
    exact ⟨rfl, rfl, rfl, rfl, rfl, endService_rxState _ hs, rfl, rfl, rfl, rfl, rfl, rfl⟩
  · have hends : endsService (cycleCmd i) = true := by rw [hc]; rfl
    have hexec := (cycleExec_kbdon p a b { s with busyPin := i.busy } hbusy).trans (exec_kbdon a b _)
    have hcommand := cycleCommand_some p i _ _ _ hc hexec
    obtain ⟨u, hu, hidle, htimer, fu⟩ := cycleService_kbdon p i (s.cyc.dataSync.getLsbD 1)
      { respond true false 0x00#8 (State.reinitialised { s with busyPin := i.busy }) with
        cyc := { s.cyc with rspValid := true } } hends rfl rfl
    refine ⟨_, clockCycle_bracket p i s _ u hr (.inl (by rw [hc]; rfl)) hcommand hu, ?_⟩
    rw [linkCycle_frame]
    refine ⟨hidle, htimer, ?_⟩
    rw [fu]
    exact ⟨rfl, rfl, rfl, rfl, rfl, rfl, rfl, rfl, rfl, rfl⟩

end Sys2Proof.Machine
end

section
/-! PROOFS. The client's LCDWAIT at its sample (R60, R105): the step of its LINKBUSY answers the pin's level, and that
answer decides whether the loop goes on. -/

namespace Sys2Proof.Machine

/-- The step of a LINKBUSY at the head of the list (R60). -/
theorem step_linkbusy {es : List Event} {s : State} (hl : s.level = .event) (hh : s.handoff = none)
    (he : s.events = .cmd wordLinkbusy :: es) :
    step s = .next (respond true false (BitVec.setWidth 8 (BitVec.ofBool s.busyPin)) { s with events := es }) := by
  have hdecode : decodeCmd wordLinkbusy = .linkbusy 0#8 0#8 := decodeCmd_cmdWord _ _ _ _
  rw [stepRunsDecodedCommand s wordLinkbusy es hl hh he, hdecode]
  exact exec_linkbusy 0#8 0#8 { s with events := es } s.busyPin rfl

/-- `DATA[0]` of the response to a sample decides between another probe and the neutral transmission (R105). -/
theorem answer_sample (r : Rsp) (ops : List ClientOp) :
    Client.answer r { ops := .wait :: ops, phase := .sample } =
      { ops := .wait :: ops, phase := if (rspData r).getLsbD 0 then .probeLow else .neutral } :=
  (apply_ite (Client.mk (.wait :: ops)) _ _ _).symm

/-- A response whose `DATA` is the pin's level has it in `DATA[0]` (R60). -/
theorem rspData_level_getLsbD (ok err level : Bool) :
    (rspData (mkRsp ok err (BitVec.setWidth 8 (BitVec.ofBool level)))).getLsbD 0 = level := by
  simp

/-- Settles O59: the sample is a LINKBUSY, its step answers the pin's level in `DATA[0]`, and the client goes by that
bit. -/
theorem lcdWaitLeavesAtFirstZero : Obligations.LcdWaitLeavesAtFirstZero := by
  intro ops s hl hh
  refine ⟨wordLinkbusy, _, rfl, step_linkbusy hl hh rfl, fun hpin => ?_, fun hpin => ?_⟩
  all_goals
    rw [respond_rsp, answer_sample, rspData_level_getLsbD, hpin]
    rfl

end Sys2Proof.Machine
end

section
/-! PROOFS. Commands at the cycle level (R59, R112, R130, R139, R141): `rsp_valid` follows the command input, and a
cycle whose command neither starts the sequencer nor ends a service is, after the command, the cycle without it. -/

namespace Sys2Proof.Machine

/-! ### The edge service where its timer has run out -/

/-- The pulse has run out: the line is released and blanking begins (R136). -/
theorem serviceCycle_releases (p : Config.Timing) (d : Bool) (s : State) (hs : s.cyc.svc = .inhibit)
    (ht : s.cyc.svcTimer = 0) : serviceCycle p d s =
      .next { s with clkDriveLow := false, rxState := rxAwaitStart,
                     cyc := { s.cyc with svc := .blank, svcTimer := p.blankCycles } } := by
  simp [serviceCycle, hs, ht]

/-- Blanking has run out: the service is idle (R136). -/
theorem serviceCycle_unblanks (p : Config.Timing) (d : Bool) (s : State) (hs : s.cyc.svc = .blank)
    (ht : s.cyc.svcTimer = 0) : serviceCycle p d s = .next { s with cyc := { s.cyc with svc := .idle } } := by
  simp [serviceCycle, hs, ht]

/-! ### The parts of a cycle that do not touch the response -/

/-- `s` with the given `rsp_valid`. -/
def State.withRspValid (v : Bool) (s : State) : State := { s with cyc := { s.cyc with rspValid := v } }

/-- From `s`, `f` completes with `t`; it leaves the response and `rd` as they were and neither reads nor writes
`rsp_valid`. -/
structure LeavesResponse (f : State → Res) (s t : State) : Prop where
  completes : f s = .next t
  rsp : t.rsp = s.rsp
  rd : t.rd = s.rd
  withRspValid : ∀ v, f (s.withRspValid v) = .next (t.withRspValid v)

/-- What does not depend on `rsp_valid` does not write it. -/
theorem LeavesResponse.rspValid {f : State → Res} {s t : State} (h : LeavesResponse f s t) :
    t.cyc.rspValid = s.cyc.rspValid := by
  have hsame : t = t.withRspValid s.cyc.rspValid :=
    Host.Outcome.next.inj (h.completes.symm.trans (h.withRspValid s.cyc.rspValid))
  rw [hsame]
  rfl

/-- Two such parts in sequence are one. -/
theorem LeavesResponse.andThen {f g : State → Res} {s t u : State} (hf : LeavesResponse f s t)
    (hg : LeavesResponse g t u) : LeavesResponse (fun s => andThen (f s) g) s u where
  completes := by rw [hf.completes, andThen_next, hg.completes]
  rsp := hg.rsp.trans hf.rsp
  rd := hg.rd.trans hf.rd
  withRspValid v := by rw [hf.withRspValid, andThen_next, hg.withRspValid]

/-- The state rule with the translator's step leaves the response alone. -/
theorem receive_leavesResponse (d : Bool) (s : State) : ∃ t, LeavesResponse (receive d) s t := by
  obtain ⟨t, ht, ft⟩ := receive_spec d s
  refine ⟨t, ht, by rw [ft], by rw [ft], fun v => ?_⟩
  calc receive d (s.withRspValid v)
      = receive d ((s.withRspValid v).withHiddenOf s) := rfl
    _ = .next ((s.withRspValid v).withHiddenOf t) := by rw [receive_withHiddenOf, ht, andThen_next]
    _ = .next (t.withRspValid v) := by rw [ft]; rfl

/-- So is the end of the sample. -/
theorem afterSample_leavesResponse (p : Config.Timing) (s : State) :
    LeavesResponse (fun s => .next (afterSample p s)) s (afterSample p s) := by
  refine ⟨rfl, ?_, ?_, fun v => ?_⟩ <;> simp only [afterSample]
  · split <;> rfl
  · split <;> rfl
  · rw [apply_ite (State.withRspValid v)]
    rfl

/-- So is the sample. -/
theorem sampleEdge_leavesResponse (p : Config.Timing) (d : Bool) (s : State) :
    ∃ t, LeavesResponse (sampleEdge p d) s t := by
  by_cases hk : s.kbdEnabled = true
  · obtain ⟨t, ht⟩ := receive_leavesResponse d s
    obtain ⟨hc, hrsp, hrd, hv⟩ := ht.andThen (afterSample_leavesResponse p t)
    exact ⟨_, (if_pos hk).trans hc, hrsp, hrd, fun v => (if_pos hk).trans (hv v)⟩
  · exact ⟨_, if_neg hk, rfl, rfl, fun _ => if_neg hk⟩

/-- So is one cycle of the edge service: IDLE takes the pending edge or waits, every other phase counts down or ends. -/
theorem serviceCycle_leavesResponse (p : Config.Timing) (d : Bool) (s : State) :
    ∃ t, LeavesResponse (serviceCycle p d) s t := by
  by_cases hcount : s.cyc.svc ≠ .idle ∧ 0 < s.cyc.svcTimer
  · obtain ⟨hs, ht⟩ := hcount
    exact ⟨_, serviceCycle_counts p d s hs ht, rfl, rfl, fun v => serviceCycle_counts p d (s.withRspValid v) hs ht⟩
  cases hs : s.cyc.svc with
  | idle =>
    have hidle : ∀ v, (s.withRspValid v).cyc.svc = .idle := fun _ => hs
    refine ⟨_, by rw [serviceCycle, hs], ?_, ?_, fun v => ?_⟩
    · split <;> rfl
    · split <;> rfl
    · rw [serviceCycle, hidle, apply_ite (State.withRspValid v)]
      rfl
  | settle =>
    have ht : s.cyc.svcTimer = 0 := by simpa [hs] using hcount
    obtain ⟨t, hc, hrsp, hrd, hv⟩ := sampleEdge_leavesResponse p d s
    exact ⟨t, (serviceCycle_settled p d s hs ht).trans hc, hrsp, hrd,
      fun v => (serviceCycle_settled p d (s.withRspValid v) hs ht).trans (hv v)⟩
  | inhibit =>
    have ht : s.cyc.svcTimer = 0 := by simpa [hs] using hcount
    exact ⟨_, serviceCycle_releases p d s hs ht, rfl, rfl,
      fun v => serviceCycle_releases p d (s.withRspValid v) hs ht⟩
  | blank =>
    have ht : s.cyc.svcTimer = 0 := by simpa [hs] using hcount
    exact ⟨_, serviceCycle_unblanks p d s hs ht, rfl, rfl,
      fun v => serviceCycle_unblanks p d (s.withRspValid v) hs ht⟩

/-- So is the service part of a cycle. -/
theorem cycleService_leavesResponse (p : Config.Timing) (i : CycleIn) (d : Bool) (s : State) :
    ∃ t, LeavesResponse (cycleService p i d) s t := by
  by_cases hend : serviceEnded i s = true
  · exact ⟨_, if_pos hend, rfl, rfl, fun _ => if_pos hend⟩
  · obtain ⟨t, hc, hrsp, hrd, hv⟩ := serviceCycle_leavesResponse p d s
    exact ⟨t, (if_neg hend).trans hc, hrsp, hrd, fun v => (if_neg hend).trans (hv v)⟩

/-- So is the link part. -/
theorem linkCycle_leavesResponse (p : Config.Timing) (ph : LkPhase) (s : State) :
    LeavesResponse (fun s => .next (linkCycle p ph s)) s (linkCycle p ph s) := by
  refine ⟨rfl, by rw [linkCycle_frame], by rw [linkCycle_frame], fun v => congrArg _ ?_⟩
  cases ph with
  | idle => rfl
  | shift =>
    simp only [linkCycle, shiftCycle, apply_ite (State.withRspValid v)]
    rfl
  | latch =>
    simp only [linkCycle, latchCycle, apply_ite (State.withRspValid v)]
    rfl

/-! ### A cycle after its command -/

/-- The end of a cycle that began in `before`: edge detection and the sampling of the lines (R135). -/
def detectEdge (i : CycleIn) (before s : State) : State :=
  cycleEnd i (latchFall i before s).edgePending s

/-- It leaves the response alone as well. -/
theorem detectEdge_leavesResponse (i : CycleIn) (before s : State) :
    LeavesResponse (fun s => .next (detectEdge i before s)) s (detectEdge i before s) := by
  refine ⟨rfl, rfl, rfl, fun v => ?_⟩
  have hlatch : (latchFall i before (s.withRspValid v)).edgePending = (latchFall i before s).edgePending := by
    simp only [latchFall, apply_ite State.edgePending]
    rfl
  simp only [detectEdge, hlatch]
  rfl

/-- The service part, the link part and the end of a cycle that began in `before`, after the command part. -/
def afterCommand (p : Config.Timing) (i : CycleIn) (before t : State) : Res :=
  andThen (andThen (cycleService p i (before.cyc.dataSync.getLsbD 1) t)
    fun u => .next (linkCycle p before.cyc.lkPhase u)) fun v => .next (detectEdge i before v)

/-- A cycle is its command part and these. -/
theorem runCycle_eq_afterCommand (p : Config.Timing) (i : CycleIn) (s : State) :
    runCycle p i s = andThen (cycleCommand p i s) (afterCommand p i s) := by
  refine congrArg _ (funext fun t => ?_)
  obtain ⟨u, hu, -⟩ := cycleService_leavesResponse p i (s.cyc.dataSync.getLsbD 1) t
  simp only [afterCommand, hu, andThen_next]
  rw [latchFall_frame]
  rfl

/-- What follows the command leaves the response alone. -/
theorem afterCommand_leavesResponse (p : Config.Timing) (i : CycleIn) (before s : State) :
    ∃ t, LeavesResponse (afterCommand p i before) s t := by
  obtain ⟨u, hu⟩ := cycleService_leavesResponse p i (before.cyc.dataSync.getLsbD 1) s
  exact ⟨_, (hu.andThen (linkCycle_leavesResponse p _ u)).andThen (detectEdge_leavesResponse i before _)⟩

/-- `i` without its command. -/
def CycleIn.withoutCmd (i : CycleIn) : CycleIn := { i with cmdValid := false }

/-- A KBDON ends a service. -/
theorem isKbdon_of_endsService {c : Option Instr} (h : endsService c = false) : isKbdon c = false := by
  cases c with
  | none => rfl
  | some i => exact (Bool.or_eq_false_iff.mp ((endsService_eq i).symm.trans h)).1

/-- What follows a command other than KBDOFF and KBDON is what follows no command. -/
theorem afterCommand_withoutCmd (p : Config.Timing) (i : CycleIn) (s u : State) (he : endsService (cycleCmd i) = false)
    (hcyc : u.cyc = s.cyc) (hk : u.kbdEnabled = s.kbdEnabled) :
    afterCommand p i s = afterCommand p i.withoutCmd u := by
  funext t
  have hservice : ∀ d, cycleService p i d t = cycleService p i.withoutCmd d t := fun d => by
    rw [cycleService, cycleService, serviceEnded_none i t he, serviceEnded_none i.withoutCmd t rfl]
  have hlatch : ∀ v, latchFall i s v = latchFall i.withoutCmd u v := fun v => by
    simp only [latchFall, serviceEnded_none i s he, serviceEnded_none i.withoutCmd u rfl, isKbdon_of_endsService he,
      isKbdon_of_endsService (c := cycleCmd i.withoutCmd) rfl, hcyc, hk]
  simp only [afterCommand, detectEdge, hservice, hlatch, hcyc]
  rfl

/-! ### The whole cycle -/

/-- The command presented in a cycle is a host command (R51). -/
theorem format_cycleCmd {i : CycleIn} {instr : Instr} (hc : cycleCmd i = some instr) :
    (encode instr).format = .hostCmd := by
  obtain ⟨-, hsome⟩ := Option.ite_none_right_eq_some.mp hc
  obtain rfl := Option.some.inj hsome
  exact format_decodeCmd i.cmd

/-- `rsp_valid` follows the command input (R139). -/
theorem runCycle_rspValid (p : Config.Timing) (i : CycleIn) (s t : State) (ht : runCycle p i s = .next t) :
    t.cyc.rspValid = i.cmdValid := by
  rw [runCycle_eq_afterCommand] at ht
  obtain ⟨u, hu, hut⟩ := (andThen_eq_next _ _ _).mp ht
  obtain ⟨t', ht'⟩ := afterCommand_leavesResponse p i s u
  obtain rfl := Host.Outcome.next.inj (ht'.completes.symm.trans hut)
  rw [ht'.rspValid]
  cases hv : i.cmdValid with
  | false =>
    obtain rfl := Host.Outcome.next.inj ((cycleCommand_none p i s hv).symm.trans hu)
    rfl
  | true =>
    simp only [cycleCommand, cycleCmd_valid i hv] at hu
    obtain ⟨w, -, hwu⟩ := (andThen_eq_next _ _ _).mp hu
    obtain rfl := Host.Outcome.next.inj hwu
    rfl

/-- A command that leaves the hidden registers and `kbd_enabled` alone, and is neither KBDOFF nor KBDON, leads to `u`:
but for `rsp_valid` its cycle is the cycle without a command from `u` (R139). -/
theorem clockCycle_withoutCmd (p : Config.Timing) (i : CycleIn) (s u : State) (instr : Instr) (hr : i.rst = false)
    (hc : cycleCmd i = some instr) (he : endsService (some instr) = false)
    (hx : cycleExec p instr { s with busyPin := i.busy } = .next { u with busyPin := i.busy })
    (hcyc : u.cyc = s.cyc) (hk : u.kbdEnabled = s.kbdEnabled) :
    ∃ t, clockCycle p i.withoutCmd u = .next t ∧ clockCycle p i s = .next (t.withRspValid true) ∧
      t.rsp = u.rsp ∧ t.rd = u.rd := by
  obtain ⟨t, ht⟩ := afterCommand_leavesResponse p i.withoutCmd { u with busyPin := i.busy }
    { u with busyPin := i.busy }
  refine ⟨t.withRspValid false, ?_, ?_, ht.rsp, ht.rd⟩
  · rw [clockCycle_run p i.withoutCmd u hr, runCycle_eq_afterCommand, cycleCommand_none p i.withoutCmd _ rfl]
    exact ht.withRspValid false
  · rw [clockCycle_run p i s hr, runCycle_eq_afterCommand, cycleCommand_some p i _ _ instr hc hx,
      afterCommand_withoutCmd p i { s with busyPin := i.busy } { u with busyPin := i.busy } (hc ▸ he) hcyc hk]
    exact ht.withRspValid true

/-- A command that is the fault faults its cycle. -/
theorem clockCycle_fault (p : Config.Timing) (i : CycleIn) (s : State) (instr : Instr) (f : Fault) (hr : i.rst = false)
    (hc : cycleCmd i = some instr) (hx : cycleExec p instr { s with busyPin := i.busy } = .fault f) :
    clockCycle p i s = .fault f := by
  simp only [clockCycle_run p i s hr, runCycle, cycleCommand, hc, hx, andThen_fault]

/-- LINKTX while the interface is enabled is the fault (R59, R112). -/
theorem cycleExec_linktx_enabled (p : Config.Timing) (a f : Byte) (s : State) (hk : s.kbdEnabled = true) :
    cycleExec p (.linktx a f) s = .fault .linkWhileKeyboardEnabled := by
  have hforbidden : linkForbidden s = true := by simp [linkForbidden, Config.sharedPins, hk]
  exact if_pos hforbidden

/-- Settles O56: the faults are the command's, and for a refused LINKTX and a polling command the cycle is the cycle
without the command from the state the command leads to. -/
theorem cycleCommandRules : Obligations.CycleCommandRules := by
  refine fun p i s hr => ⟨fun t ht => ?_, fun a b hc hb => ?_, fun a f hc hk hb => ?_, fun a f hc hk => ?_,
    fun instr hc hp => ?_⟩
  · exact runCycle_rspValid p i _ t ((clockCycle_run p i s hr).symm.trans ht)
  · exact clockCycle_fault p i s _ _ hr hc (cycleExec_kbdon_busy p a b _ hb)
  · obtain ⟨t, hquiet, hcmd, hrsp, -⟩ := clockCycle_withoutCmd p i s
      { s with rsp := 0x000#10, trace := .response 0x000#10 :: s.trace } _ hr hc rfl
      (cycleExec_refused p a f _ hk hb) rfl rfl
    exact ⟨t, hquiet, hcmd, hrsp⟩
  · exact clockCycle_fault p i s _ _ hr hc (cycleExec_linktx_enabled p a f _ hk)
  · obtain ⟨-, hl, he⟩ := (polling_iff i).mp hp
    rw [hc] at hl he
    obtain ⟨u, hu, fu, hrd⟩ := exec_polling instr { s with busyPin := i.busy } (format_cycleCmd hc) hl he
    have hcyc : u.cyc = s.cyc := by rw [fu]
    have hk : u.kbdEnabled = s.kbdEnabled := by rw [fu]
    have hpin : { u with busyPin := i.busy } = u := by rw [fu]
    have hx := (cycleExec_other p instr _ hl (isKbdon_of_endsService he)).trans hu
    rw [← hpin] at hx
    obtain ⟨t, hquiet, hcmd, htrsp, htrd⟩ := clockCycle_withoutCmd p i s u instr hr hc he hx hcyc hk
    exact ⟨u, t, hu, fu, hrd, hquiet, hcmd, htrsp, htrd⟩

end Sys2Proof.Machine
end

section
/-! PROOFS. The reset input at both levels (R123, R124), and the reset state of the cycle level. -/

namespace Sys2Proof.Machine

/-- Settles O2: at either level the step of the reset input is `resetBlock`. -/
theorem resetInputRestoresRegisters : Obligations.ResetInputRestoresRegisters := by
  refine ⟨fun s es hl hh he => ?_, fun s i is hl hc hr => ?_⟩
  · rw [step_event s hl hh, he, ← hl]
    rfl
  · rw [step_cycle s i is hl hc, clockCycle, if_pos hr, ← hl]
    rfl

/-- Settles O51: `State.cycleReset` is what the reset input leaves of itself. -/
theorem resetMeetsCycleInv : Obligations.ResetMeetsCycleInv :=
  fun p => resetBlock_cycleInv p State.cycleReset rfl

end Sys2Proof.Machine
end

section
/-! PROOFS. A link transmission at the cycle level (R141): the sequencer runs through 34 half periods of the shift clock
and shows a bit of the frame at each of its sixteen rising edges; the commit follows in the next cycle (log 17). -/

namespace Sys2Proof.Machine

/-! ### One cycle of the sequencer -/

/-- What a transmission is about: the sequencer's registers and pins, the outputs and the trace. -/
structure Sequencer where
  txBusy : Bool
  linkSr : BitVec 16
  outAddr : Byte
  outFlags : Byte
  trace : List Obs
  lkPhase : LkPhase
  lkCount : BitVec 5
  lkDiv : Nat
  srData : Bool
  srClk : Bool
  srLatch : Bool

def State.sequencer (s : State) : Sequencer :=
  { txBusy := s.txBusy, linkSr := s.linkSr, outAddr := s.outAddr, outFlags := s.outFlags, trace := s.trace,
    lkPhase := s.cyc.lkPhase, lkCount := s.cyc.lkCount, lkDiv := s.cyc.lkDiv, srData := s.cyc.srData,
    srClk := s.cyc.srClk, srLatch := s.cyc.srLatch }

theorem linkCycle_shift (p : Config.Timing) (s : State) (h : s.cyc.lkPhase = .shift) :
    linkCycle p s.cyc.lkPhase s = shiftCycle p s := by rw [h, linkCycle]

theorem linkCycle_latch (p : Config.Timing) (s : State) (h : s.cyc.lkPhase = .latch) :
    linkCycle p s.cyc.lkPhase s = latchCycle p s := by rw [h, linkCycle]

/-- In a low half the divider counts down; the first cycle of the first one also puts the first bit on the pin
(R141, log 17). -/
theorem shiftCycle_low_counts (p : Config.Timing) (s : State) (hc : s.cyc.srClk = false) (hd : 0 < s.cyc.lkDiv) :
    shiftCycle p s = { s with cyc := { s.cyc with
      srData := if s.cyc.lkDiv = p.shiftDiv then frameBit s.linkSr s.cyc.lkCount else s.cyc.srData,
      lkDiv := s.cyc.lkDiv - 1 } } := by
  by_cases hfirst : s.cyc.lkDiv = p.shiftDiv
  · simp [shiftCycle, hc, hfirst]
  · simp [shiftCycle, hc, hd, hfirst]

/-- In a high half the divider counts down. -/
theorem shiftCycle_high_counts (p : Config.Timing) (s : State) (hc : s.cyc.srClk = true) (hd : 0 < s.cyc.lkDiv) :
    shiftCycle p s = { s with cyc := { s.cyc with lkDiv := s.cyc.lkDiv - 1 } } := by
  simp [shiftCycle, hc, hd]

/-- A low half ends with the rising edge, which shows the bit on the pin. -/
theorem shiftCycle_rises (p : Config.Timing) (s : State) (hp : 1 ≤ p.shiftDiv) (hc : s.cyc.srClk = false)
    (hd : s.cyc.lkDiv = 0) : shiftCycle p s =
      { s with trace := .shiftEdge s.cyc.srData :: s.trace,
               cyc := { s.cyc with srClk := true, lkCount := s.cyc.lkCount + 1#5, lkDiv := p.shiftDiv - 1 } } := by
  have hfirst : 0 ≠ p.shiftDiv := by omega
  simp [shiftCycle, hc, hd, hfirst]

/-- A high half with bits to come ends with the falling edge and the next bit on the pin. -/
theorem shiftCycle_falls (p : Config.Timing) (s : State) (hc : s.cyc.srClk = true) (hd : s.cyc.lkDiv = 0)
    (hk : s.cyc.lkCount.toNat < 16) : shiftCycle p s =
      { s with cyc := { s.cyc with srClk := false, srData := frameBit s.linkSr s.cyc.lkCount,
                                   lkDiv := p.shiftDiv - 1 } } := by
  simp [shiftCycle, hc, hd, hk]

/-- The last high half ends in LATCH. -/
theorem shiftCycle_ends (p : Config.Timing) (s : State) (hc : s.cyc.srClk = true) (hd : s.cyc.lkDiv = 0)
    (hk : s.cyc.lkCount.toNat = 16) : shiftCycle p s =
      { s with cyc := { s.cyc with srClk := false, lkPhase := .latch, lkDiv := p.shiftDiv - 1 } } := by
  simp [shiftCycle, hc, hd, hk]

/-- In LATCH the divider counts down. -/
theorem latchCycle_counts (p : Config.Timing) (s : State) (hd : 0 < s.cyc.lkDiv) :
    latchCycle p s = { s with cyc := { s.cyc with lkDiv := s.cyc.lkDiv - 1 } } := by
  simp [latchCycle, hd]

/-- Its first half ends with the latch line low. -/
theorem latchCycle_falls (p : Config.Timing) (s : State) (hl : s.cyc.srLatch = true) (hd : s.cyc.lkDiv = 0) :
    latchCycle p s = { s with cyc := { s.cyc with srLatch := false, lkDiv := p.shiftDiv - 1 } } := by
  simp [latchCycle, hl, hd]

/-- Its second half ends with the commit. -/
theorem latchCycle_commits (p : Config.Timing) (s : State) (hl : s.cyc.srLatch = false) (hd : s.cyc.lkDiv = 0) :
    latchCycle p s =
      latchOutputs { s with txBusy := false, cyc := { s.cyc with srLatch := true, lkPhase := .idle } } := by
  simp [latchCycle, hl, hd]

/-! ### The half periods of a transmission -/

/-- Bit `k` of the frame in `link_sr` is the bit `s_k` of R47. -/
theorem linkBits_getElem? (a f : Byte) (k : BitVec 5) (hk : k.toNat < 16) :
    (linkBits a f)[k.toNat]? = some (frameBit (cat a f) k) := by
  rw [frameBit]
  generalize k.toNat = n at hk
  interval_cases n <;> simp [linkBits, msbFirst, getElem_cat]

/-- What the first `k` rising edges of a transmission show, newest first. -/
def shownBits (a f : Byte) (k : Nat) : List Obs := (((linkBits a f).take k).map Obs.shiftEdge).reverse

/-- The rising edge of bit `k` shows it after those before it. -/
theorem shownBits_succ (a f : Byte) (k : BitVec 5) (hk : k.toNat < 16) :
    shownBits a f (k.toNat + 1) = .shiftEdge (frameBit (cat a f) k) :: shownBits a f k.toNat := by
  simp only [shownBits, List.take_add_one, linkBits_getElem? a f k hk]
  simp

/-- The sixteen rising edges show the whole frame. -/
theorem shownBits_all (a f : Byte) : shownBits a f 16 = ((linkBits a f).map Obs.shiftEdge).reverse := rfl

/-- The half period a transmission is in, by the number `n` of those that follow it. A low half has its bit on the pin,
except in the first cycle of the first one. -/
inductive InHalf (p : Config.Timing) (n : Nat) (v : Sequencer) : Prop
  | low (phase : v.lkPhase = .shift) (clk : v.srClk = false) (latch : v.srLatch = true)
      (toCome : v.lkCount.toNat < 16) (halves : n + 2 * v.lkCount.toNat = 33)
      (data : v.lkDiv ≠ p.shiftDiv → v.srData = frameBit v.linkSr v.lkCount)
  | high (phase : v.lkPhase = .shift) (clk : v.srClk = true) (latch : v.srLatch = true)
      (halves : n + 2 * v.lkCount.toNat = 34) (left : 2 ≤ n)
  | beforeLatch (phase : v.lkPhase = .latch) (latch : v.srLatch = true) (sent : v.lkCount.toNat = 16) (halves : n = 1)
  | inLatch (phase : v.lkPhase = .latch) (latch : v.srLatch = false) (sent : v.lkCount.toNat = 16) (halves : n = 0)

/-- The frame `a`, `f` is being sent from `before`, with `n` half periods after the present one: the outputs are kept,
and the bits of the rising edges so far are shown. -/
structure Transmits (p : Config.Timing) (a f : Byte) (before : State) (n : Nat) (v : Sequencer) : Prop where
  txBusy : v.txBusy = true
  linkSr : v.linkSr = cat a f
  outAddr : v.outAddr = before.outAddr
  outFlags : v.outFlags = before.outFlags
  trace : v.trace = shownBits a f v.lkCount.toNat ++ .response 0x100#10 :: before.trace
  half : InHalf p n v

section Transmission
variable {p : Config.Timing} {a f : Byte} {before s : State} {n : Nat}

/-- Within a half period the divider counts down. -/
theorem Transmits.counts (h : Transmits p a f before n s.sequencer) (hd : 0 < s.cyc.lkDiv) :
    Transmits p a f before n (linkCycle p s.cyc.lkPhase s).sequencer ∧
      (linkCycle p s.cyc.lkPhase s).sequencer.lkDiv = s.cyc.lkDiv - 1 := by
  obtain ⟨hbusy, hsr, haddr, hflags, htrace, hhalf⟩ := h
  cases hhalf with
  | low phase clk latch toCome halves data =>
    rw [linkCycle_shift p s phase, shiftCycle_low_counts p s clk hd]
    refine ⟨⟨hbusy, hsr, haddr, hflags, htrace, .low phase clk latch toCome halves fun _ => ?_⟩, rfl⟩
    dsimp only
    split
    · rfl
    · next hfirst => exact data hfirst
  | high phase clk latch halves left =>
    rw [linkCycle_shift p s phase, shiftCycle_high_counts p s clk hd]
    exact ⟨⟨hbusy, hsr, haddr, hflags, htrace, .high phase clk latch halves left⟩, rfl⟩
  | beforeLatch phase latch sent halves =>
    rw [linkCycle_latch p s phase, latchCycle_counts p s hd]
    exact ⟨⟨hbusy, hsr, haddr, hflags, htrace, .beforeLatch phase latch sent halves⟩, rfl⟩
  | inLatch phase latch sent halves =>
    rw [linkCycle_latch p s phase, latchCycle_counts p s hd]
    exact ⟨⟨hbusy, hsr, haddr, hflags, htrace, .inLatch phase latch sent halves⟩, rfl⟩

/-- A half period that is not the last is followed by the next one, of `SHIFT_DIV` cycles. -/
theorem Transmits.next_half (hp : 1 ≤ p.shiftDiv) (h : Transmits p a f before (n + 1) s.sequencer)
    (hd : s.cyc.lkDiv = 0) :
    Transmits p a f before n (linkCycle p s.cyc.lkPhase s).sequencer ∧
      (linkCycle p s.cyc.lkPhase s).sequencer.lkDiv = p.shiftDiv - 1 := by
  obtain ⟨hbusy, hsr, haddr, hflags, htrace, hhalf⟩ := h
  cases hhalf with
  | low phase clk latch toCome halves data =>
    have hlt : s.cyc.lkCount.toNat < 16 := toCome
    have hhalves : n + 1 + 2 * s.cyc.lkCount.toNat = 33 := halves
    have hcount : (s.cyc.lkCount + 1#5).toNat = s.cyc.lkCount.toNat + 1 := by bv_omega
    have hnotFirst : s.cyc.lkDiv ≠ p.shiftDiv := by omega
    have hbit : s.cyc.srData = frameBit (cat a f) s.cyc.lkCount := hsr ▸ data hnotFirst
    have hshown : .shiftEdge s.cyc.srData :: s.trace =
        shownBits a f (s.cyc.lkCount + 1#5).toNat ++ .response 0x100#10 :: before.trace := by
      rw [hcount, shownBits_succ a f _ hlt, hbit, List.cons_append]
      exact congrArg _ htrace
    have hafter : n + 2 * (s.cyc.lkCount + 1#5).toNat = 34 := by omega
    rw [linkCycle_shift p s phase, shiftCycle_rises p s hp clk hd]
    exact ⟨⟨hbusy, hsr, haddr, hflags, hshown, .high phase rfl latch hafter (by omega)⟩, rfl⟩
  | high phase clk latch halves left =>
    have hhalves : n + 1 + 2 * s.cyc.lkCount.toNat = 34 := halves
    rw [linkCycle_shift p s phase]
    by_cases hk : s.cyc.lkCount.toNat < 16
    · have hafter : n + 2 * s.cyc.lkCount.toNat = 33 := by omega
      rw [shiftCycle_falls p s clk hd hk]
      exact ⟨⟨hbusy, hsr, haddr, hflags, htrace, .low phase rfl latch hk hafter fun _ => rfl⟩, rfl⟩
    · have hsent : s.cyc.lkCount.toNat = 16 := by omega
      rw [shiftCycle_ends p s clk hd hsent]
      exact ⟨⟨hbusy, hsr, haddr, hflags, htrace, .beforeLatch rfl latch hsent (by omega)⟩, rfl⟩
  | beforeLatch phase latch sent halves =>
    rw [linkCycle_latch p s phase, latchCycle_falls p s latch hd]
    exact ⟨⟨hbusy, hsr, haddr, hflags, htrace, .inLatch phase rfl sent (Nat.succ.inj halves)⟩, rfl⟩
  | inLatch phase latch sent halves => cases halves

/-- The last half period ends with the commit of the frame, all of whose bits are shown. -/
theorem Transmits.commits (h : Transmits p a f before 0 s.sequencer) (hd : s.cyc.lkDiv = 0) :
    (linkCycle p s.cyc.lkPhase s).sequencer =
      { s.sequencer with
        txBusy := false, outAddr := a, outFlags := f, srLatch := true, lkPhase := .idle,
        trace := .latch a f :: ((linkBits a f).map Obs.shiftEdge).reverse ++ .response 0x100#10 :: before.trace } := by
  obtain ⟨hbusy, hsr, haddr, hflags, htrace, hhalf⟩ := h
  cases hhalf with
  | low _ _ _ toCome halves => omega
  | high _ _ _ halves left => omega
  | beforeLatch _ _ _ halves => cases halves
  | inLatch phase latch sent _ =>
    rw [sent, shownBits_all] at htrace
    rw [linkCycle_latch p s phase, latchCycle_commits p s latch hd]
    simp only [State.sequencer] at hsr htrace ⊢
    simp [hsr, htrace]

/-! ### The cycles of a transmission -/

/-- A quiet cycle while the interface is disabled is a cycle of the sequencer. -/
theorem clockCycle_disabled_sequencer (p : Config.Timing) (i : CycleIn) (s : State) (hq : quiet i = true)
    (hk : s.kbdEnabled = false) (hs : s.cyc.svc = .idle ∨ s.cyc.svc = .settle) :
    ∃ t, clockCycle p i s = .next t ∧ t.kbdEnabled = false ∧ (t.cyc.svc = .idle ∨ t.cyc.svc = .settle) ∧
      t.sequencer = (linkCycle p s.cyc.lkPhase s).sequencer := by
  obtain ⟨t, l, ht, rfl, hsvc, hen, hsr, hbusy, haddr, hflags, htrace, hphase, hcount, hdiv, hdata, hclk, hlatch⟩ :=
    clockCycle_disabled p i s hq hk hs
  have hkept : (linkCycle p s.cyc.lkPhase s).linkSr = s.linkSr := by rw [linkCycle_frame]
  refine ⟨t, ht, hen, hsvc, ?_⟩
  simp only [State.sequencer, hsr, hkept, hbusy, haddr, hflags, htrace, hphase, hcount, hdiv, hdata, hclk, hlatch]

/-- The frame `a`, `f` is being sent from `before`, and `left` cycles more are in progress before the commit. -/
structure Sending (p : Config.Timing) (a f : Byte) (before : State) (left : Nat) (s : State) : Prop where
  kbdEnabled : s.kbdEnabled = false
  svc : s.cyc.svc = .idle ∨ s.cyc.svc = .settle
  transmits : ∃ n, Transmits p a f before n s.sequencer ∧ left = s.cyc.lkDiv + n * p.shiftDiv

/-- While the interface is disabled no pulse and no blanking is in progress (R138). -/
theorem CycleInv.svc_disabled (h : CycleInv p s) (hk : s.kbdEnabled = false) :
    s.cyc.svc = .idle ∨ s.cyc.svc = .settle := by
  have hrecovering : ¬(s.cyc.svc = .inhibit ∨ s.cyc.svc = .blank) := fun hs => by simp [h.recovering hs] at hk
  cases hs : s.cyc.svc with
  | idle => exact .inl rfl
  | settle => exact .inr rfl
  | inhibit => exact absurd (.inl hs) hrecovering
  | blank => exact absurd (.inr hs) hrecovering

/-- The command part of an accepted LINKTX's cycle: the sequencer is started and the response registered (R141). -/
def State.linkStarted (p : Config.Timing) (a f : Byte) (s : State) : State :=
  respond true false 0x00#8
    { s with txBusy := true, linkSr := cat a f,
             cyc := { s.cyc with lkPhase := .shift, lkCount := 0#5, lkDiv := p.shiftDiv, rspValid := true } }

/-- LINKTX outside a transmission and with the interface disabled is accepted. -/
theorem cycleCommand_linktx (p : Config.Timing) (i : CycleIn) (a f : Byte) (s : State) (hk : s.kbdEnabled = false)
    (hb : s.txBusy = false) (hc : cycleCmd i = some (.linktx a f)) :
    cycleCommand p i s = .next (s.linkStarted p a f) := by
  rcases linkAccept_cases p a f s with ⟨hen, -⟩ | ⟨-, hbusy, -⟩ | ⟨-, -, haccept⟩
  · cases hk.symm.trans hen
  · cases hb.symm.trans hbusy
  · exact cycleCommand_some p i s _ _ hc haccept

/-- It starts a transmission of 34 half periods, the first of them one cycle longer (R141, log 17). -/
theorem transmits_linkStarted (p : Config.Timing) (a f : Byte) (s : State) (hclk : s.cyc.srClk = false)
    (hlatch : s.cyc.srLatch = true) : Transmits p a f s 33 (s.linkStarted p a f).sequencer where
  txBusy := rfl
  linkSr := rfl
  outAddr := rfl
  outFlags := rfl
  trace := rfl
  half := .low rfl hclk hlatch (by decide : (0#5).toNat < 16) (by decide : 33 + 2 * (0#5).toNat = 33)
    fun hdiv => absurd rfl hdiv

/-- The shift clock rests at 0 and the latch line at 1 outside a transmission (R56, R141). -/
theorem CycleInv.pins_idle (h : CycleInv p s) (hb : s.txBusy = false) :
    s.cyc.srClk = false ∧ s.cyc.srLatch = true := by
  have hidle := h.lkPhase_idle hb
  refine ⟨Bool.eq_false_iff.mpr fun hclk => ?_, Bool.eq_true_of_not_eq_false fun hlatch => ?_⟩
  · cases hidle.symm.trans (h.srClk hclk)
  · cases hidle.symm.trans (h.srLatch hlatch)

/-- The cycle of an accepted LINKTX starts the transmission, which is in progress for 34 half periods from then on. -/
theorem clockCycle_linktx (p : Config.Timing) (i : CycleIn) (a f : Byte) (s : State) (hi : CycleInv p s)
    (hk : s.kbdEnabled = false) (hb : s.txBusy = false) (hr : i.rst = false)
    (hc : cycleCmd i = some (.linktx a f)) :
    ∃ t, clockCycle p i s = .next t ∧ Sending p a f s (34 * p.shiftDiv) t := by
  have hcommand := cycleCommand_linktx p i a f { s with busyPin := i.busy } hk hb hc
  obtain ⟨u, hu, hsvc, fu⟩ := serviceCycle_disabled p (s.cyc.dataSync.getLsbD 1)
    (State.linkStarted p a f { s with busyPin := i.busy }) hk (hi.svc_disabled hk)
  have hservice : cycleService p i (s.cyc.dataSync.getLsbD 1)
      (State.linkStarted p a f { s with busyPin := i.busy }) = .next u := by
    rw [cycleService, serviceEnded_none i _ (by rw [hc]; rfl)]
    exact hu
  have hrun := (clockCycle_run p i s hr).trans (runCycle_eq p i _ _ u hcommand hservice)
  have hlink : linkCycle p s.cyc.lkPhase u = u := by rw [hi.lkPhase_idle hb, linkCycle_idle]
  obtain ⟨hclk, hlatch⟩ := hi.pins_idle hb
  simp only [hlink, latchFall_disabled i { s with busyPin := i.busy } u hk] at hrun
  have hseq : u.sequencer = (s.linkStarted p a f).sequencer := by rw [fu]; rfl
  refine ⟨_, hrun, by rw [fu]; exact hk, hsvc, 33, ?_, ?_⟩
  · exact hseq ▸ transmits_linkStarted p a f s hclk hlatch
  · have hdiv : u.cyc.lkDiv = p.shiftDiv := congrArg Sequencer.lkDiv hseq
    simp only [sampleLines, hdiv]
    omega

/-- A quiet cycle before the commit is one of those in progress. -/
theorem Sending.quiet_cycle {j : CycleIn} {left : Nat} (hp : 1 ≤ p.shiftDiv) (h : Sending p a f before (left + 1) s)
    (hq : quiet j = true) : ∃ t, clockCycle p j s = .next t ∧ Sending p a f before left t := by
  obtain ⟨hk, hs, n, htx, hleft⟩ := h
  obtain ⟨t, ht, hen, hsvc, hseq⟩ := clockCycle_disabled_sequencer p j s hq hk hs
  have hdiv : t.cyc.lkDiv = (linkCycle p s.cyc.lkPhase s).sequencer.lkDiv := congrArg Sequencer.lkDiv hseq
  refine ⟨t, ht, hen, hsvc, ?_⟩
  rw [hseq, hdiv]
  by_cases hd : 0 < s.cyc.lkDiv
  · obtain ⟨hstep, hcount⟩ := htx.counts hd
    exact ⟨n, hstep, by omega⟩
  · have hzero : s.cyc.lkDiv = 0 := by omega
    cases n with
    | zero => omega
    | succ n =>
      obtain ⟨hstep, hreload⟩ := htx.next_half hp hzero
      rw [Nat.succ_mul] at hleft
      exact ⟨n, hstep, by omega⟩

/-- So are several. -/
theorem Sending.quiet_cycles {left : Nat} (hp : 1 ≤ p.shiftDiv) (is : List CycleIn)
    (h : Sending p a f before (is.length + left) s) (hq : ∀ j ∈ is, quiet j = true) :
    ∃ t, clockRun p is s = .next t ∧ Sending p a f before left t := by
  induction is generalizing s with
  | nil => exact ⟨s, rfl, by simpa using h⟩
  | cons j is ih =>
    obtain ⟨hj, his⟩ := List.forall_mem_cons.mp hq
    rw [List.length_cons, Nat.add_right_comm] at h
    obtain ⟨m, hm, hsend⟩ := h.quiet_cycle hp hj
    obtain ⟨t, ht, hrest⟩ := ih hsend his
    exact ⟨t, by rw [clockRun_cons, hm, andThen_next, ht], hrest⟩

/-- The cycle after those commits the frame. -/
theorem Sending.commits {j : CycleIn} (hp : 1 ≤ p.shiftDiv) (h : Sending p a f before 0 s) (hq : quiet j = true) :
    ∃ t, clockCycle p j s = .next t ∧ t.txBusy = false ∧ t.outAddr = a ∧ t.outFlags = f ∧
      t.linkSr = cat a f ∧ t.kbdEnabled = false ∧
      t.trace = .latch a f :: ((linkBits a f).map Obs.shiftEdge).reverse ++ .response 0x100#10 :: before.trace := by
  obtain ⟨hk, hs, n, htx, hleft⟩ := h
  obtain ⟨hdiv, hlast⟩ : s.cyc.lkDiv = 0 ∧ n * p.shiftDiv = 0 := by omega
  obtain rfl : n = 0 := (Nat.mul_eq_zero.mp hlast).resolve_right (by omega)
  obtain ⟨t, ht, hen, -, hseq⟩ := clockCycle_disabled_sequencer p j s hq hk hs
  rw [htx.commits hdiv] at hseq
  exact ⟨t, ht, congrArg Sequencer.txBusy hseq, congrArg Sequencer.outAddr hseq, congrArg Sequencer.outFlags hseq,
    (congrArg Sequencer.linkSr hseq).trans htx.linkSr, hen, congrArg Sequencer.trace hseq⟩

end Transmission

/-- Settles O54: LINKTX's cycle starts the transmission, every quiet cycle is one of those in progress, and the one
after them commits. -/
theorem linkTransmissionCompletes : Obligations.LinkTransmissionCompletes := by
  intro p i is a f s hp hi hk hb hr hc hq
  obtain ⟨m, hm, hsend⟩ := clockCycle_linktx p i a f s hi hk hb hr hc
  rw [clockRun_cons, hm, andThen_next]
  refine ⟨fun hlen => ?_, fun hlen => ?_⟩
  · rw [← Nat.add_sub_cancel' hlen] at hsend
    obtain ⟨t, ht, hrest⟩ := hsend.quiet_cycles hp.2 is hq
    obtain ⟨n, htx, -⟩ := hrest.transmits
    exact ⟨t, ht, htx.txBusy, htx.outAddr, htx.outFlags⟩
  · obtain ⟨js, k, rfl, hjs⟩ := exists_last is _ hlen
    obtain ⟨hqs, hqk⟩ := List.forall_mem_append.mp hq
    rw [← hjs] at hsend
    obtain ⟨u, hu, hlast⟩ := hsend.quiet_cycles (left := 0) hp.2 js hqs
    obtain ⟨t, ht, hbusy, haddr, hflags, hsr, hen, htrace⟩ :=
      hlast.commits hp.2 (hqk k (List.mem_singleton_self k))
    exact ⟨t, clockRun_snoc p js k m u t hu ht, hbusy, haddr, hflags, hsr.trans (cat_eq_ofNat a f), hen, htrace⟩

end Sys2Proof.Machine
end

section
/-! PROOFS. Edge detection (R135, R137, R138): the lines are sampled in every cycle without reset, and a fall of the
clock line is latched two cycles after it is sampled. -/

namespace Sys2Proof.Machine

/-! ### What the parts of a cycle leave of edge detection -/

/-- The synchronisers hold what they held. -/
structure SyncKept (s t : State) : Prop where
  clk : t.cyc.clkSync = s.cyc.clkSync
  data : t.cyc.dataSync = s.cyc.dataSync

theorem SyncKept.trans {s t u : State} (h : SyncKept s t) (h' : SyncKept t u) : SyncKept s u :=
  ⟨h'.clk.trans h.clk, h'.data.trans h.data⟩

/-- What the command part of a cycle leaves: the synchronisers and the phase of the service, and `edge_pending` if the
command is not KBDON. -/
structure CommandKept (cmd : Option Instr) (s t : State) : Prop extends SyncKept s t where
  svc : t.cyc.svc = s.cyc.svc
  edgePending : isKbdon cmd = false → t.edgePending = s.edgePending

/-- Every command that completes leaves these (R97, R98, R139, R141). -/
theorem cycleExec_kept (p : Config.Timing) (i : Instr) (s t : State) (hf : (encode i).format = .hostCmd)
    (ht : cycleExec p i s = .next t) : CommandKept (some i) s t := by
  cases hl : isLinktx (some i) with
  | true =>
    cases i with
    | linktx a f =>
      rcases linkAccept_cases p a f s with ⟨-, e⟩ | ⟨-, -, e⟩ | ⟨-, -, e⟩
      · cases e.symm.trans ht
      · obtain rfl := Host.Outcome.next.inj (e.symm.trans ht)
        exact ⟨⟨rfl, rfl⟩, rfl, fun _ => rfl⟩
      · obtain rfl := Host.Outcome.next.inj (e.symm.trans ht)
        exact ⟨⟨rfl, rfl⟩, rfl, fun _ => rfl⟩
    | _ => cases hl
  | false =>
    obtain ⟨hexec, -⟩ := cycleExec_next p i s t hl ht
    rcases exec_cmd_inputSide i s t hf hexec with ⟨-, ft⟩ | ⟨-, ft⟩ | ⟨hon, ft⟩ <;> rw [ft]
    · exact ⟨⟨rfl, rfl⟩, rfl, fun _ => rfl⟩
    · exact ⟨⟨rfl, rfl⟩, rfl, fun _ => rfl⟩
    · exact ⟨⟨rfl, rfl⟩, rfl, fun hoff => nomatch hon.symm.trans hoff⟩

/-- So does the command part. -/
theorem cycleCommand_kept (p : Config.Timing) (i : CycleIn) (s t : State) (ht : cycleCommand p i s = .next t) :
    CommandKept (cycleCmd i) s t := by
  cases hc : cycleCmd i with
  | none =>
    simp only [cycleCommand, hc] at ht
    obtain rfl := Host.Outcome.next.inj ht
    exact ⟨⟨rfl, rfl⟩, rfl, fun _ => rfl⟩
  | some instr =>
    simp only [cycleCommand, hc] at ht
    obtain ⟨u, hu, hut⟩ := (andThen_eq_next _ _ _).mp ht
    obtain rfl := Host.Outcome.next.inj hut
    have hkept := cycleExec_kept p instr s u (format_cycleCmd hc) hu
    exact ⟨⟨hkept.clk, hkept.data⟩, hkept.svc, hkept.edgePending⟩

/-- The sample leaves the synchronisers and `edge_pending`. -/
theorem sampleEdge_kept (p : Config.Timing) (d : Bool) (s t : State) (ht : sampleEdge p d s = .next t) :
    SyncKept s t ∧ t.edgePending = s.edgePending := by
  unfold sampleEdge at ht
  split at ht
  · obtain ⟨u, hu, hut⟩ := (andThen_eq_next _ _ _).mp ht
    obtain rfl := Host.Outcome.next.inj hut
    obtain ⟨u', hu', fu⟩ := receive_spec d s
    obtain rfl := Host.Outcome.next.inj (hu'.symm.trans hu)
    rw [afterSample]
    split <;> rw [fu] <;> exact ⟨⟨rfl, rfl⟩, rfl⟩
  · obtain rfl := Host.Outcome.next.inj ht
    exact ⟨⟨rfl, rfl⟩, rfl⟩

/-- A cycle of the edge service leaves the synchronisers; IDLE takes a pending edge, and no other phase does (R136). -/
theorem serviceCycle_kept (p : Config.Timing) (d : Bool) (s t : State) (ht : serviceCycle p d s = .next t) :
    SyncKept s t ∧ t.edgePending = (s.edgePending && s.cyc.svc != .idle) := by
  unfold serviceCycle at ht
  split at ht
  next hs =>
    obtain rfl := Host.Outcome.next.inj ht
    rw [hs]
    split
    · exact ⟨⟨rfl, rfl⟩, (Bool.and_false _).symm⟩
    · next hnone => exact ⟨⟨rfl, rfl⟩, by simpa using hnone⟩
  next hs =>
    rw [hs]
    split at ht
    · obtain rfl := Host.Outcome.next.inj ht
      exact ⟨⟨rfl, rfl⟩, (Bool.and_true _).symm⟩
    · obtain ⟨hsync, hedge⟩ := sampleEdge_kept p d s t ht
      exact ⟨hsync, hedge.trans (Bool.and_true _).symm⟩
  next hs =>
    obtain rfl := Host.Outcome.next.inj ht
    rw [hs]
    split <;> exact ⟨⟨rfl, rfl⟩, (Bool.and_true _).symm⟩
  next hs =>
    obtain rfl := Host.Outcome.next.inj ht
    rw [hs]
    split <;> exact ⟨⟨rfl, rfl⟩, (Bool.and_true _).symm⟩

/-- So does the service part, where it does not end a service. -/
theorem cycleService_kept (p : Config.Timing) (i : CycleIn) (d : Bool) (s t : State)
    (ht : cycleService p i d s = .next t) :
    SyncKept s t ∧ (serviceEnded i s = false → t.edgePending = (s.edgePending && s.cyc.svc != .idle)) := by
  unfold cycleService at ht
  split at ht
  next hended =>
    obtain rfl := Host.Outcome.next.inj ht
    exact ⟨⟨rfl, rfl⟩, fun hno => nomatch hended.symm.trans hno⟩
  next =>
    obtain ⟨hsync, hedge⟩ := serviceCycle_kept p d s t ht
    exact ⟨hsync, fun _ => hedge⟩

/-! ### The end of a cycle -/

/-- The phases that latch a fall are IDLE and SETTLE. -/
theorem latchingPhase_eq (c : Svc) : latchingPhase c = (c == .idle || c == .settle) := by
  cases c <;> rfl

/-- Edge detection sets `edge_pending` for a fall and leaves it otherwise (R135). -/
theorem latchFall_edgePending (i : CycleIn) (b s : State) (hk : isKbdon (cycleCmd i) = false)
    (he : serviceEnded i b = false) : (latchFall i b s).edgePending =
      ((fallDetected b.cyc && b.kbdEnabled && latchingPhase b.cyc.svc) || s.edgePending) := by
  simp only [latchFall, hk, he, Bool.not_false, Bool.and_true]
  split
  · next h => rw [h, Bool.true_or]
  · next h => rw [Bool.eq_false_iff.mpr h, Bool.false_or]

/-- A cycle ends with edge detection and the sampling of the lines, on the synchronisers as they were before the cycle
and `edge_pending` as the service part has left it. -/
theorem runCycle_detects (p : Config.Timing) (i : CycleIn) (s t : State) (ht : runCycle p i s = .next t) :
    ∃ u, SyncKept s u ∧ t.cyc = sampleLines i u.cyc ∧ t.edgePending = (latchFall i s u).edgePending ∧
      (isKbdon (cycleCmd i) = false → serviceEnded i s = false →
        u.edgePending = (s.edgePending && s.cyc.svc != .idle)) := by
  obtain ⟨c, u, hc, hu, rfl⟩ := runCycle_next p i s t ht
  have hcommand := cycleCommand_kept p i s c hc
  obtain ⟨hsync, hedge⟩ := cycleService_kept p i _ c u hu
  have hlink : SyncKept u (linkCycle p s.cyc.lkPhase u) := by
    rw [linkCycle_frame]
    exact ⟨rfl, rfl⟩
  refine ⟨linkCycle p s.cyc.lkPhase u, hcommand.toSyncKept.trans (hsync.trans hlink), ?_, rfl, fun hk he => ?_⟩
  · rw [latchFall_frame]
  · have hended : serviceEnded i c = false := by rw [serviceEnded, hcommand.svc]; exact he
    rw [linkCycle_frame, ← hcommand.edgePending hk, ← hcommand.svc]
    exact hedge hended

/-- The lines enter their synchronisers, and `clk_prev` takes the clock line's second stage (R135). -/
theorem runCycle_samples_lines (p : Config.Timing) (i : CycleIn) (s t : State) (ht : runCycle p i s = .next t) :
    t.cyc.clkSync.getLsbD 0 = i.ps2Clk ∧ t.cyc.clkSync.getLsbD 1 = s.cyc.clkSync.getLsbD 0 ∧
    t.cyc.dataSync.getLsbD 0 = i.ps2Data ∧ t.cyc.dataSync.getLsbD 1 = s.cyc.dataSync.getLsbD 0 ∧
    t.cyc.clkPrev = s.cyc.clkSync.getLsbD 1 := by
  obtain ⟨u, hsync, hcyc, -⟩ := runCycle_detects p i s t ht
  rw [hcyc, ← hsync.clk, ← hsync.data]
  exact ⟨sampleLines_clkSync_zero i _, sampleLines_clkSync_one i _, sampleLines_dataSync_zero i _,
    sampleLines_dataSync_one i _, sampleLines_clkPrev i _⟩

/-- `edge_pending` after a cycle whose command is not KBDON and ends no service (R135, R136). -/
theorem runCycle_edgePending (p : Config.Timing) (i : CycleIn) (s t : State) (hk : isKbdon (cycleCmd i) = false)
    (he : serviceEnded i s = false) (ht : runCycle p i s = .next t) : t.edgePending =
      ((s.cyc.clkPrev && !s.cyc.clkSync.getLsbD 1 && s.kbdEnabled && (s.cyc.svc == .idle || s.cyc.svc == .settle)) ||
        (s.edgePending && s.cyc.svc != .idle)) := by
  obtain ⟨u, -, -, hlatched, hedge⟩ := runCycle_detects p i s t ht
  rw [hlatched, latchFall_edgePending i s u hk he, hedge hk he, latchingPhase_eq, fallDetected]

/-! ### From the line to `edge_pending` -/

/-- The command part of a cycle in which the host polls completes and leaves `kbd_enabled`. -/
theorem cycleCommand_polling (p : Config.Timing) (i : CycleIn) (s : State) (hp : polling i = true) :
    ∃ t, cycleCommand p i s = .next t ∧ t.kbdEnabled = s.kbdEnabled := by
  obtain ⟨-, hl, he⟩ := (polling_iff i).mp hp
  cases hv : i.cmdValid with
  | false => exact ⟨_, cycleCommand_none p i s hv, rfl⟩
  | true =>
    have hc := cycleCmd_valid i hv
    rw [hc] at hl he
    obtain ⟨u, hu, fu, -⟩ := exec_polling _ s (format_decodeCmd i.cmd) hl he
    have hexec := (cycleExec_other p _ s hl (isKbdon_of_endsService he)).trans hu
    exact ⟨_, cycleCommand_some p i s u _ hc hexec, by rw [fu]⟩

/-- A cycle in which the host polls and no service is in progress or due completes so, and leaves `kbd_enabled`. -/
theorem runCycle_polling_idle (p : Config.Timing) (i : CycleIn) (s : State) (hp : polling i = true)
    (hs : s.cyc.svc = .idle) (he : s.edgePending = false) :
    ∃ t, runCycle p i s = .next t ∧ t.kbdEnabled = s.kbdEnabled ∧ t.cyc.svc = .idle := by
  obtain ⟨-, -, hends⟩ := (polling_iff i).mp hp
  obtain ⟨c, hc, hen⟩ := cycleCommand_polling p i s hp
  have hkept := cycleCommand_kept p i s c hc
  have hidle : c.cyc.svc = .idle := hkept.svc.trans hs
  have hnone : c.edgePending = false := (hkept.edgePending (isKbdon_of_endsService hends)).trans he
  refine ⟨_, runCycle_eq p i s c c hc (cycleService_idle p i _ c hidle hnone), ?_⟩
  rw [latchFall_frame, linkCycle_frame]
  exact ⟨hen, hidle⟩

/-- The interface is enabled, no service is in progress and no edge pending; the two stages of the clock line's
synchroniser hold `first` and `second`. -/
structure Watching (first second : Bool) (s : State) : Prop where
  kbdEnabled : s.kbdEnabled = true
  svc : s.cyc.svc = .idle
  edgePending : s.edgePending = false
  first : s.cyc.clkSync.getLsbD 0 = first
  second : s.cyc.clkSync.getLsbD 1 = second

/-- A polling cycle of such a state latches an edge exactly where `clk_prev` is 1 and the second stage 0. -/
theorem Watching.detects {first second : Bool} {s : State} (h : Watching first second s) (p : Config.Timing)
    (i : CycleIn) (hp : polling i = true) : ∃ t, clockCycle p i s = .next t ∧ t.kbdEnabled = true ∧
      t.cyc.svc = .idle ∧ t.edgePending = (s.cyc.clkPrev && !second) ∧ t.cyc.clkSync.getLsbD 0 = i.ps2Clk ∧
      t.cyc.clkSync.getLsbD 1 = first ∧ t.cyc.clkPrev = second := by
  obtain ⟨hr, -, hends⟩ := (polling_iff i).mp hp
  obtain ⟨t, ht, hen, hidle⟩ := runCycle_polling_idle p i { s with busyPin := i.busy } hp h.svc h.edgePending
  obtain ⟨h0, h1, -, -, hprev⟩ := runCycle_samples_lines p i _ t ht
  have hedge := runCycle_edgePending p i _ t (isKbdon_of_endsService hends) (serviceEnded_none i _ hends) ht
  refine ⟨t, (clockCycle_run p i s hr).trans ht, hen.trans h.kbdEnabled, hidle, ?_, h0, h1.trans h.first,
    hprev.trans h.second⟩
  simp [hedge, ← h.second, h.kbdEnabled, h.svc, h.edgePending]

/-- Where the second stage is 1 no edge is latched, and the state is such a state again. -/
theorem Watching.watches {first : Bool} {s : State} (h : Watching first true s) (p : Config.Timing) (i : CycleIn)
    (hp : polling i = true) :
    ∃ t, clockCycle p i s = .next t ∧ Watching i.ps2Clk first t ∧ t.cyc.clkPrev = true := by
  obtain ⟨t, ht, hen, hidle, hedge, h0, h1, hprev⟩ := h.detects p i hp
  exact ⟨t, ht, ⟨hen, hidle, hedge.trans (Bool.and_false _), h0, h1⟩, hprev⟩

/-- Settles O58: the sampling and the latching rule hold of every cycle, and a fall moves through the two stages of the
synchroniser before the third cycle latches it. -/
theorem lineFallIsLatched : Obligations.LineFallIsLatched := by
  refine ⟨fun p i s t hr ht => ?_, fun p i s t hr hk he ht => ?_,
    fun p i j k s hen hs he hsync hi hj hk hfall => ?_⟩
  · exact runCycle_samples_lines p i { s with busyPin := i.busy } t ((clockCycle_run p i s hr).symm.trans ht)
  · exact runCycle_edgePending p i { s with busyPin := i.busy } t hk he ((clockCycle_run p i s hr).symm.trans ht)
  · have hwatch : Watching true true s := ⟨hen, hs, he, by rw [hsync]; rfl, by rw [hsync]; rfl⟩
    obtain ⟨t1, ht1, hw1, -⟩ := hwatch.watches p i hi
    rw [hfall] at hw1
    obtain ⟨t2, ht2, hw2, hprev⟩ := hw1.watches p j hj
    obtain ⟨t3, ht3, -, -, hedge, -⟩ := hw2.detects p k hk
    have hrun : clockRun p [i, j] s = .next t2 := by simp only [clockRun_cons, clockRun_nil, ht1, ht2, andThen_next]
    refine ⟨t2, t3, hrun, hw2.edgePending, clockRun_snoc p [i, j] k s t2 t3 hrun ht3, ?_⟩
    rw [hedge, hprev]
    rfl

end Sys2Proof.Machine
end
